-- ==== Sys2Proof/Word.lean ====
section
/-! DEFINITION. The two widths of the machine: a core cell of 4 bits and a character of 8 bits
(spec/00_scope.md R6). -/

namespace Sys2Proof

/-- One 4-bit core cell, a nibble (R21). -/
abbrev Nibble := BitVec 4

/-- One 8-bit character, the width of Buffer and of the two channels (R6, R27, R170, R171). -/
abbrev Byte := BitVec 8

end Sys2Proof
end

