-- ==== Sys2Proof/Config.lean ====
section
/-! DEFINITION. The configuration of one run and the free value of the random channel
(spec/10_state.md R37, spec/60_exceptions.md R172). -/

namespace Sys2Proof

/-- The two modes, fixed for the whole of one run (R5). -/
inductive Mode where
  /-- One program, a Buffer and character channels. -/
  | single
  /-- Several programs sharing one core; no Buffer and no channels. -/
  | arena
deriving DecidableEq, Repr

/-- A program text: a string of characters (R75). -/
abbrev Program := List Char

/-- The configuration inputs and parameters of one run (R6, R37, R42, R205). No step writes them.
`input` is the host's finite input byte sequence (R171), `draws` the host's answers of the random
channel (R172). DESIGN CHOICE (log 3, safe): they stand in `State`, so that every statement about
all states is a statement about all configurations. -/
structure RunConfig where
  /-- MODE (R37). -/
  mode : Mode
  /-- N, the number of cells of the core (R6). -/
  coreSize : Nat
  /-- S, the minimum agent separation (ARENA, R6). -/
  separation : Nat
  /-- M, the maximum agent program length (ARENA, R6). -/
  maxLen : Nat
  /-- C, the cycle limit per round, in passes (ARENA, R6). -/
  cycleLimit : Nat
  /-- R, the round count (ARENA, R6). -/
  rounds : Nat
  /-- MAX_ITER, the iteration budget (SINGLE, R6). -/
  maxIter : Nat
  /-- P_0 … P_(K-1); SINGLE has exactly one (R37). -/
  programs : List Program
  /-- The host's input byte sequence (SINGLE, R171). -/
  input : List Byte
  /-- The answers the random channel gives first, each an index into the set it is asked to draw
  from, taken modulo the size of that set (ARENA, R172; log 5). -/
  draws : List Nat
deriving DecidableEq, Repr

/-- DESIGN CHOICE (log 2, unsafe to lean on): the configuration `State.reset` holds. The spec leaves
N and MAX_ITER open (D3, D5); 16 is the N of the spec's own vectors (spec/95_test_vectors.md). -/
def RunConfig.default : RunConfig where
  mode := .single
  coreSize := 16
  separation := 0
  maxLen := 0
  cycleLimit := 0
  rounds := 0
  maxIter := 1000000
  programs := [[]]
  input := []
  draws := []

/-- FREE VALUE (R172, log 5): the random channel's answer number `k` once the configuration's
`draws` are used up. Nothing constrains it. -/
opaque Config.freeDraw : Nat → Nat

end Sys2Proof
end

