-- ==== Sys2Proof/Syntax.lean ====
section
/-! DEFINITION. The closed set of 16 instructions (spec/30_encoding.md R72). No instruction has an
explicit operand (R71), so no constructor has an argument. -/

namespace Sys2Proof

/-- The instructions, in the order of their opcodes 0 to 15 (R72). -/
inductive Instr where
  /-- HALT, opcode 0 (R130). -/
  | halt
  /-- NEXT, opcode 1 (R100). -/
  | next
  /-- PREV, opcode 2 (R101). -/
  | prev
  /-- NEXT2, opcode 3 (R102). -/
  | next2
  /-- PREV2, opcode 4 (R103). -/
  | prev2
  /-- INC, opcode 5 (R110). -/
  | inc
  /-- DEC, opcode 6 (R111). -/
  | dec
  /-- CINC, opcode 7 (R112). -/
  | cinc
  /-- CDEC, opcode 8 (R113). -/
  | cdec
  /-- OUT, opcode 9 (R120). -/
  | out
  /-- IN, opcode 10 (R121). -/
  | inp
  /-- OPEN, opcode 11 (R137). -/
  | opn
  /-- CLOSE, opcode 12 (R138). -/
  | close
  /-- COPEN, opcode 13 (R139). -/
  | copen
  /-- CCLOSE, opcode 14 (R140). -/
  | cclose
  /-- SWAP, opcode 15 (R122). -/
  | swap
deriving DecidableEq, Repr

/-- All instructions, in opcode order (R72). -/
def Instr.all : List Instr :=
  [.halt, .next, .prev, .next2, .prev2, .inc, .dec, .cinc, .cdec, .out, .inp, .opn, .close, .copen,
   .cclose, .swap]

end Sys2Proof
end

