-- ==== Sys2Proof/WellFormed.lean ====
section
/-! DEFINITION. Well-formedness. An instruction has no operand that could be out of range
(spec/30_encoding.md R70, R71), so the checks that can fail are those on a run's configuration
(spec/00_scope.md R6, spec/10_state.md R37). -/

namespace Sys2Proof

/-- Every instruction is well formed: the opcode is its only field and every opcode is defined
(R70, R71, R73). -/
def Instr.wellFormed : Instr → Bool
  | .halt | .next | .prev | .next2 | .prev2 | .inc | .dec | .cinc | .cdec | .out | .inp | .opn
  | .close | .copen | .cclose | .swap => true

/-- N ≥ 2 in both modes (R6). -/
def RunConfig.coreSizeOk (c : RunConfig) : Bool := decide (2 ≤ c.coreSize)

/-- SINGLE takes exactly one program, ARENA two or more (R37). -/
def RunConfig.programCountOk (c : RunConfig) : Bool :=
  match c.mode with
  | .single => decide (c.programs.length = 1)
  | .arena => decide (2 ≤ c.programs.length)

/-- The configurations the spec gives a run to, up to ARENA's program length check, which needs the
symbol table and is part of `configCheck` (R176). -/
def RunConfig.wellFormed (c : RunConfig) : Bool := c.coreSizeOk && c.programCountOk

end Sys2Proof
end

