-- ==== Sys2Proof/Decode.lean ====
section
/-! DEFINITION. The decoder, the encoder and the program symbols (spec/30_encoding.md). One cell is
one instruction; decoding is total, because every 4-bit value is defined (R73, R74). -/

namespace Sys2Proof

/-! ### Cells to instructions -/

/-- Why a cell sequence yields no instruction: there is no cell. No cell value is refused (R73). -/
inductive DecodeError where
  /-- The sequence is empty. Safe: the core always has a cell at EP (R53). -/
  | noCell
deriving DecidableEq, Repr

/-- The opcode map of R72, bit 3 first. -/
def decode (c : Nibble) : Instr :=
  match c.getLsbD 3, c.getLsbD 2, c.getLsbD 1, c.getLsbD 0 with
  | false, false, false, false => .halt
  | false, false, false, true  => .next
  | false, false, true,  false => .prev
  | false, false, true,  true  => .next2
  | false, true,  false, false => .prev2
  | false, true,  false, true  => .inc
  | false, true,  true,  false => .dec
  | false, true,  true,  true  => .cinc
  | true,  false, false, false => .cdec
  | true,  false, false, true  => .out
  | true,  false, true,  false => .inp
  | true,  false, true,  true  => .opn
  | true,  true,  false, false => .close
  | true,  true,  false, true  => .copen
  | true,  true,  true,  false => .cclose
  | true,  true,  true,  true  => .swap

/-- The first instruction of a cell sequence and the cells after it; every instruction is one cell
long (R70). -/
def decodeCells : List Nibble → Except DecodeError (Instr × List Nibble)
  | [] => .error .noCell
  | c :: rest => .ok (decode c, rest)

/-- A whole cell sequence read as instructions, one a cell (R70). -/
def decodeAll : List Nibble → List Instr
  | [] => []
  | c :: rest => decode c :: decodeAll rest

/-- The cells of a number that holds `nbits` bits, its least significant four bits first. -/
def cellsOfNumber (nbits w : Nat) : List Nibble :=
  (List.range ((nbits + 3) / 4)).map (fun k => BitVec.ofNat 4 (w / 16 ^ k))

/-- The instruction the decoder reads from the cells of `w` (log 15). -/
def decodeTableWord (nbits w : Nat) : Option Instr :=
  match decodeCells (cellsOfNumber nbits w) with
  | .ok (i, _) => some i
  | .error _ => none

/-! ### Instructions to cells -/

/-- The opcode of an instruction (R72). -/
def opcode : Instr → Nibble
  | .halt   => 0#4
  | .next   => 1#4
  | .prev   => 2#4
  | .next2  => 3#4
  | .prev2  => 4#4
  | .inc    => 5#4
  | .dec    => 6#4
  | .cinc   => 7#4
  | .cdec   => 8#4
  | .out    => 9#4
  | .inp    => 10#4
  | .opn    => 11#4
  | .close  => 12#4
  | .copen  => 13#4
  | .cclose => 14#4
  | .swap   => 15#4

/-- The cells of an instruction: its opcode and nothing else (R70). -/
def encode (i : Instr) : List Nibble := [opcode i]

/-- The cells of a sequence of instructions. -/
def encodeAll (is : List Instr) : List Nibble := is.flatMap encode

/-! ### Program text -/

/-- The ASCII code of an instruction's symbol (R78; PRESUMED, log 12: from general knowledge, as the
spec itself marks it). -/
def asciiCode : Instr → Byte
  | .halt   => 0x24#8
  | .next   => 0x7D#8
  | .prev   => 0x7B#8
  | .next2  => 0x3E#8
  | .prev2  => 0x3C#8
  | .inc    => 0x40#8
  | .dec    => 0x7E#8
  | .cinc   => 0x2B#8
  | .cdec   => 0x2D#8
  | .out    => 0x2E#8
  | .inp    => 0x2C#8
  | .opn    => 0x28#8
  | .close  => 0x29#8
  | .copen  => 0x5B#8
  | .cclose => 0x5D#8
  | .swap   => 0x2A#8

/-- The symbol of an instruction (R72, R75). The two curly braces are written by their code points,
because no literal of this package may hold one. -/
def symbol : Instr → Char
  | .halt   => '$'
  | .next   => Char.ofNat 0x7D
  | .prev   => Char.ofNat 0x7B
  | .next2  => '>'
  | .prev2  => '<'
  | .inc    => '@'
  | .dec    => '~'
  | .cinc   => '+'
  | .cdec   => '-'
  | .out    => '.'
  | .inp    => ','
  | .opn    => '('
  | .close  => ')'
  | .copen  => '['
  | .cclose => ']'
  | .swap   => '*'

/-- The instruction a character stands for; `none` for every character that is not one of the 16
symbols, which the loader skips (R75, R76). -/
def ofSymbol (ch : Char) : Option Instr := Instr.all.find? (fun i => symbol i == ch)

/-- The instruction a byte of program text stands for (R78). -/
def ofByte (b : Byte) : Option Instr := Instr.all.find? (fun i => asciiCode i == b)

/-- Program text received as bytes, each byte the code of its character (R78). -/
def textOfBytes (bs : List Byte) : Program := bs.map (fun b => Char.ofNat b.toNat)

/-- The recognised symbols of a program, in order (R75, R76). -/
def recognise (p : Program) : List Instr := p.filterMap ofSymbol

/-- The length of a program: the number of its recognised symbols (R155, D21). -/
def programLength (p : Program) : Nat := (recognise p).length

/-- The printed form of a sequence of cells: the symbol of each (R79). -/
def listing (cells : List Nibble) : Program := cells.map (fun c => symbol (decode c))

end Sys2Proof
end

