-- ==== Sys2Proof/Machine/State.lean ====
section
/-! DEFINITION. The state of the machine (spec/10_state.md), its reasons to stop, and the state after
reset (R43). -/

namespace Sys2Proof.Machine

/-! ### Reasons to stop -/

/-- The ways the machine stands still. The spec has no fault of an instruction (R150, R96). -/
inductive Fault where
  /-- Raised by `step` when the run has ended: SINGLE HALTED or STOPPED, ARENA DONE or CONFIG_ERROR.
  The spec has no step there (R90, R162, R164, R190). DEDUCED (log 7). Safe. -/
  | runOver
deriving DecidableEq, Repr

/-- The inputs the model gives no meaning to. -/
inductive Refusal where
  /-- Raised by `exec` for an instruction without a meaning. No arm uses it. Safe. -/
  | notModelled (mnemonic : String)
  /-- Raised by `step` in SINGLE mode for a core of fewer than 2 cells, "a parameter value the model
  refuses" (R156). Safe (log 8). -/
  | coreTooSmall
  /-- Raised by `step` when a SINGLE run is to boot and its configuration does not hold exactly one
  program (R37). DESIGN CHOICE (log 8). Safe. -/
  | notOneProgram
deriving DecidableEq, Repr

/-! ### The core -/

/-- The core as a sparse list of (address, cell) pairs. An address that is not listed reads 0, the
value the spec gives every cell at each of its reset events (R43, R177, R203; log 9). -/
abbrev Memory := List (Nat × Nibble)

/-- The canonical form: addresses strictly rising, no entry equal to what an unlisted address reads
as. Equal cores are then equal lists. -/
abbrev Memory.wf (m : Memory) : Prop :=
  m.Pairwise (fun x y => x.1 < y.1) ∧ ∀ c ∈ m, c.2 ≠ 0#4

/-! ### Named values -/

/-- Why an agent's last step halted (R30). -/
inductive HaltCause where
  /-- The agent has not halted. -/
  | none
  /-- It fetched opcode 0. -/
  | haltOp
  /-- A taken bracket found no match. -/
  | unmatched
deriving DecidableEq, Repr

/-- The status of a SINGLE run (R31). -/
inductive RunStatus where
  | running
  | halted
  /-- The iteration budget is exhausted (R153). -/
  | stopped
deriving DecidableEq, Repr

/-- The status of an arena (R33, R190). -/
inductive ArenaStatus where
  | idle
  | running
  | done
  | configError
deriving DecidableEq, Repr

/-- The error a CONFIG_ERROR names (R33). -/
inductive ConfigError where
  | programTooLong
  | tooFewAgents
  | placementImpossible
  | badCoreSize
deriving DecidableEq, Repr

/-- The MODEL's own: what the run controller does next (log 6). -/
inductive Phase where
  /-- SINGLE: BootSingle. ARENA: RoundInit, Place and LoadAll of round ROUND. -/
  | loading
  /-- SINGLE: the run loop. ARENA: the passes of the round. -/
  | running
deriving DecidableEq, Repr

/-! ### The agent table -/

/-- One entry of the agent table (R23). -/
structure Agent where
  /-- Cell Pointer (R24). -/
  cp : Nat
  /-- Execution Pointer, the program counter (R25). -/
  ep : Nat
  /-- Takes turns in the current round (R28; ARENA only). -/
  alive : Bool
  /-- Cumulative score (R29; ARENA only). -/
  score : Nat
  /-- Why its last step halted (R30). -/
  haltCause : HaltCause
  /-- Where its program was loaded (R23). -/
  start : Nat
  /-- How many cells the loader wrote for it (R23). -/
  len : Nat
deriving DecidableEq, Repr

/-- The entry of an agent at construction: score 0, not alive, no halt cause (R175). DESIGN CHOICE
(log 10, unsafe to lean on): its pointers, start and len are 0, where R43 says unspecified. -/
def Agent.fresh : Agent :=
  { cp := 0, ep := 0, alive := false, score := 0, haltCause := .none, start := 0, len := 0 }

/-! ### The state -/

/-- The architectural state of the block (R20), its configuration (R37), and the two fields of the
model's own, `drawPos` and `phase`. -/
structure State where
  /-- The configuration of the run; no step writes it (R37; log 3). -/
  cfg : RunConfig
  /-- The core (R21). -/
  core : Memory
  /-- The agent table (R23). -/
  agents : List Agent
  /-- Buffer (R27; SINGLE only). -/
  buffer : Byte
  /-- run_status (R31; SINGLE only). -/
  runStatus : RunStatus
  /-- ITER (R32; SINGLE only). -/
  iter : Nat
  /-- Position in the host's input byte sequence (R40; SINGLE only). -/
  inPos : Nat
  /-- The bytes already emitted, first to last (R40, R170; SINGLE only). -/
  output : List Byte
  /-- arena_status (R33; ARENA only). -/
  arenaStatus : ArenaStatus
  /-- config_error, `none` its code 0 (R33; ARENA only). -/
  configError : Option ConfigError
  /-- ROUND (R34; ARENA only). -/
  round : Nat
  /-- CYCLE (R35; ARENA only). -/
  cycle : Nat
  /-- TURN (R36; ARENA only). -/
  turn : Nat
  /-- The MODEL's own: how many answers the random channel has given (log 5). -/
  drawPos : Nat
  /-- The MODEL's own: what the run controller does next (log 6). -/
  phase : Phase
deriving DecidableEq, Repr

/-- The machine right after reset: the SINGLE run start of the empty program (R43, first column;
R203 with L = 0), under the configuration of log 2. How a program comes to run is log 1. -/
def State.reset : State where
  cfg := RunConfig.default
  core := []
  agents := [Agent.fresh]
  buffer := 0#8
  runStatus := .running
  iter := 0
  inPos := 0
  output := []
  arenaStatus := .idle
  configError := none
  round := 0
  cycle := 0
  turn := 0
  drawPos := 0
  phase := .running

end Sys2Proof.Machine
end

