-- ==== Sys2Proof/Machine/Ops.lean ====
section
/-! DEFINITION. The operations every instruction is built from: address arithmetic, the core, the
character codec, the stepping agent's pointers, the trailing advance and the halt
(spec/20_memory.md, spec/40_step.md, spec/60_exceptions.md R161). -/

namespace Sys2Proof.Machine

/-! ### Address arithmetic -/

/-- `a mod n` of R8: the residue of the integer `a` in `[0, n)`, never negative. -/
def wrap (n : Nat) (a : Int) : Nat := (a % (n : Int)).toNat

/-! ### The core as a list of cells -/

/-- The cell at an address of the core; an unlisted address reads 0 (R43; log 9). -/
def Memory.get : Memory → Nat → Nibble
  | [], _ => 0#4
  | (b, v) :: r, a => if a = b then v else Memory.get r a

/-- The core with no entry for an address. -/
def Memory.erase (m : Memory) (a : Nat) : Memory := m.filter (fun c => decide (c.1 ≠ a))

/-- An entry put before the first greater address. -/
def Memory.insert : Memory → Nat → Nibble → Memory
  | [], a, v => [(a, v)]
  | (b, w) :: r, a, v => if a < b then (a, v) :: (b, w) :: r else (b, w) :: Memory.insert r a v

/-- One cell written, the canonical form kept: writing 0 leaves no entry (log 9). -/
def Memory.set (m : Memory) (a : Nat) (v : Nibble) : Memory :=
  if v = 0#4 then m.erase a else (m.erase a).insert a v

/-! ### Cell access -/

/-- `MemRead(a, 1)`: `core[a mod N]` (R51). -/
def memRead (s : State) (a : Int) : Nibble := s.core.get (wrap s.cfg.coreSize a)

/-- `MemWrite(a, 1, v)`: `core[a mod N] <- v` and no other cell (R52). -/
def memWrite (s : State) (a : Int) (v : Nibble) : State :=
  { s with core := s.core.set (wrap s.cfg.coreSize a) v }

/-! ### The character codec -/

/-- `ReadChar(p)`: the cell at p - 1 above the cell at p (R55, R57). -/
def readChar (s : State) (p : Int) : Byte :=
  ((memRead s (p - 1)).setWidth 8 <<< 4) ||| (memRead s p).setWidth 8

/-- `WriteChar(p, b)`: the high nibble at p - 1, then the low nibble at p (R54, D7). -/
def writeChar (s : State) (p : Int) (b : Byte) : State :=
  memWrite (memWrite s (p - 1) (b.extractLsb' 4 4)) p (b.extractLsb' 0 4)

/-! ### The agent taking the step -/

/-- K, the number of agents: 1 in SINGLE mode, the number of programs in ARENA mode (R6). -/
def agentCount (c : RunConfig) : Nat :=
  match c.mode with
  | .single => 1
  | .arena => c.programs.length

/-- The agent at position `j` of the turn order of round `r`, among `k` agents (R183, D18). -/
def turnOrder (k r j : Nat) : Nat := (r + j) % k

/-- The agent taking the step: agent 0 in SINGLE mode (R164), the agent at position TURN of the
round's turn order in ARENA mode (R184). -/
def cur (s : State) : Nat :=
  match s.cfg.mode with
  | .single => 0
  | .arena => turnOrder (agentCount s.cfg) s.round s.turn

/-- The stepping agent's entry. DESIGN CHOICE (log 11, safe): a fresh entry where the table has
none, which no run reaches. -/
def curAgent (s : State) : Agent := s.agents.getD (cur s) Agent.fresh

/-- The stepping agent's entry changed; every other entry is kept (R99). -/
def updCur (s : State) (f : Agent → Agent) : State :=
  { s with agents := s.agents.modify (cur s) f }

/-- `A.CP <- x mod N` (R24). -/
def setCP (s : State) (x : Int) : State :=
  updCur s (fun a => { a with cp := wrap s.cfg.coreSize x })

/-- `A.EP <- x mod N` (R25). -/
def setEP (s : State) (x : Int) : State :=
  updCur s (fun a => { a with ep := wrap s.cfg.coreSize x })

/-- The trailing advance: `A.EP <- (A.EP + 1) mod N`, from the value EP has now (R93). -/
def advanceEP (s : State) : State := setEP s ((curAgent s).ep + 1)

/-! ### Taking a halt, the only "trap entry" of this hardware -/

/-- What a halt does to the stepping agent's entry: the cause is recorded, and in ARENA mode the
agent is dead; EP and CP stay (R161, R95, R185). -/
def haltAgent (m : Mode) (c : HaltCause) (a : Agent) : Agent :=
  { a with haltCause := c, alive := match m with | .single => a.alive | .arena => false }

/-- `raise Halt(c)` and the run controller's part of it: in SINGLE mode `run_status <- HALTED`, in
ARENA mode `alive <- 0`; no cell, no pointer and no Buffer changes (R161). There is no return from
it (R162). -/
def takeHalt (s : State) (c : HaltCause) : State :=
  { s with
    agents := s.agents.modify (cur s) (haltAgent s.cfg.mode c)
    runStatus := match s.cfg.mode with | .single => .halted | .arena => s.runStatus }

/-! ### Fetch -/

/-- Where the step fetches: the stepping agent's EP (R91). -/
def fetchAddress (s : State) : Nat := (curAgent s).ep

/-- The opcode cell of the step, `MemRead(A.EP, 1)` (R91). -/
def fetch (s : State) : Nibble := memRead s (fetchAddress s)

/-- The instruction of number `w` stored where the next step fetches: one cell, the low four bits
(R70; log 15). -/
def storeFetchCell (s : State) (w : Nat) : State :=
  memWrite s (fetchAddress s) (BitVec.ofNat 4 w)

end Sys2Proof.Machine
end

