-- ==== Sys2Proof/Machine/Loader.lean ====
section
/-! DEFINITION. The program loader and the SINGLE boot sequence (spec/70_reset_and_hazards.md R201 to
R203). -/

namespace Sys2Proof.Machine

/-- What a load leaves: the core, the loader's cursor, and the number of cells written (R201). -/
structure LoadResult where
  core : Memory
  cursor : Nat
  len : Nat
deriving DecidableEq, Repr

/-- The loop of `Load` from cursor `c` with `k` cells written so far: a recognised symbol writes its
opcode and advances the cursor, every other character is skipped (R201, R76). -/
def loadFrom (n : Nat) : Program → Memory → Nat → Nat → LoadResult
  | [], m, c, k => { core := m, cursor := c, len := k }
  | ch :: rest, m, c, k =>
    match ofSymbol ch with
    | some i => loadFrom n rest (m.set (wrap n c) (opcode i)) (wrap n (c + 1)) (k + 1)
    | none => loadFrom n rest m c k

/-- `Load(P, o)` into a core of `n` cells (R201). -/
def load (n : Nat) (p : Program) (m : Memory) (o : Nat) : LoadResult := loadFrom n p m o 0

/-- Agent 0's entry after a SINGLE boot that loaded as `l` says (R203). -/
def bootAgent (l : LoadResult) : Agent :=
  { Agent.fresh with cp := l.cursor, ep := 0, len := l.len, start := 0, haltCause := .none }

/-- `BootSingle(P_0)`: core cleared, program loaded at 0, EP 0, CP one past the last loaded cell,
Buffer 0, ITER 0, RUNNING, channels at their start (R203). -/
def bootSingle (p : Program) (s : State) : State :=
  { s with
    core := (load s.cfg.coreSize p [] 0).core
    agents := [bootAgent (load s.cfg.coreSize p [] 0)]
    buffer := 0#8
    iter := 0
    runStatus := .running
    output := []
    inPos := 0
    phase := .running }

end Sys2Proof.Machine
end

