-- ==== Sys2Proof/Machine/Arena.lean ====
section
/-! DEFINITION. The arena scheduler's own operations: construction, the configuration check, round
initialisation, placement, loading, turns and scoring (spec/60_exceptions.md R174 to R190). -/

namespace Sys2Proof.Machine

/-! ### Construction and the configuration check -/

/-- The construction of `RunArena`: K entries with score 0, not alive, cause NONE; ROUND, CYCLE and
TURN 0 (R175). The core keeps what it held (R43: unspecified; log 10). -/
def construct (s : State) : State :=
  { s with
    agents := s.cfg.programs.map (fun _ => Agent.fresh)
    round := 0
    cycle := 0
    turn := 0 }

/-- `ConfigCheck()`: the first failing test's error, or `none` (R176, R160). -/
def configCheck (c : RunConfig) : Option ConfigError :=
  if c.coreSize < 2 then some .badCoreSize
  else if agentCount c < 2 then some .tooFewAgents
  else if c.programs.any (fun p => decide (c.maxLen < programLength p)) then some .programTooLong
  else none

/-- `arena_status <- CONFIG_ERROR` with the error's name (R155, R156). -/
def failConfig (s : State) (e : ConfigError) : State :=
  { s with arenaStatus := .configError, configError := some e }

/-- The start of an arena run: construction, then RUNNING or CONFIG_ERROR (R175, R176, R190). -/
def startArena (s : State) : State :=
  match configCheck s.cfg with
  | some e => failConfig (construct s) e
  | none =>
    { construct s with arenaStatus := .running, configError := none, phase := .loading }

/-! ### Round initialisation and placement -/

/-- An agent's entry at round start: not alive, cause NONE, everything else kept (R177). -/
def resetAgent (a : Agent) : Agent := { a with alive := false, haltCause := .none }

/-- `RoundInit()` (R177). -/
def roundInit (s : State) : State :=
  { s with core := [], agents := s.agents.map resetAgent, cycle := 0, turn := 0 }

/-- ANCHOR, the start of agent 0 (R178, D13). -/
def anchor : Nat := 0

/-- `Window(s)`, both ends included, wrapping: the addresses `start + k` for k from `-w` to `w`, with
w = S + M (R179). -/
def window (n w start : Nat) : List Nat :=
  (List.range (2 * w + 1)).map (fun (k : Nat) => wrap n ((start : Int) + (k : Int) - (w : Int)))

/-- The exclusion window of a start under a configuration (R179). -/
def exclusion (c : RunConfig) (start : Nat) : List Nat :=
  window c.coreSize (c.separation + c.maxLen) start

/-- `F`: the addresses of the core that are not reserved, in increasing order (R180). -/
def unreserved (n : Nat) (res : List Nat) : List Nat :=
  (List.range n).filter (fun a => decide (a ∉ res))

/-- The random channel's next answer: the host's, or a free value when the host's are used up
(R172; log 5). -/
def drawAnswer (s : State) : Nat := (s.cfg.draws[s.drawPos]?).getD (Config.freeDraw s.drawPos)

/-- `Draw(F)`: the member of `F` an answer selects; every member is selected by some answer, and
only the empty set gives none (R172). -/
def draw (f : List Nat) (answer : Nat) : Option Nat := f[answer % f.length]?

/-- `start_i <- v`. -/
def setStart (s : State) (i v : Nat) : State :=
  { s with agents := s.agents.modify i (fun a => { a with start := v }) }

/-- The loop of `Place()`: agents `i`, `i + 1`, … , `todo` of them, with `res` reserved. `false` when
an agent finds no unreserved offset (R180, R181). -/
def placeFrom : Nat → Nat → List Nat → State → Bool × State
  | 0, _, _, s => (true, s)
  | todo + 1, i, res, s =>
    match draw (unreserved s.cfg.coreSize res) (drawAnswer s) with
    | none => (false, s)
    | some a =>
      placeFrom todo (i + 1) (res ++ exclusion s.cfg a)
        (setStart { s with drawPos := s.drawPos + 1 } i a)

/-- `Place()`: agent 0 at the anchor, then the others in increasing index (R178, R180). -/
def place (s : State) : Bool × State :=
  placeFrom (agentCount s.cfg - 1) 1 (exclusion s.cfg anchor) (setStart s 0 anchor)

/-! ### Loading -/

/-- An agent's entry after its load: EP at its start, CP past its last cell, alive (R182). -/
def loadedAgent (a : Agent) (l : LoadResult) : Agent :=
  { a with len := l.len, ep := a.start, cp := l.cursor, alive := true }

/-- The loop of `LoadAll()` over the programs and the agents' entries, in increasing index, into a
core of `n` cells (R182). -/
def loadAgents (n : Nat) : List Program → List Agent → Memory → Memory × List Agent
  | p :: ps, a :: as, m =>
    ((loadAgents n ps as (load n p m a.start).core).1,
      loadedAgent a (load n p m a.start) :: (loadAgents n ps as (load n p m a.start).core).2)
  | _, as, m => (m, as)

/-- `LoadAll()` (R182). -/
def loadAll (s : State) : State :=
  { s with
    core := (loadAgents s.cfg.coreSize s.cfg.programs s.agents s.core).1
    agents := (loadAgents s.cfg.coreSize s.cfg.programs s.agents s.core).2 }

/-- The head of the round loop: RoundInit, Place and LoadAll of round ROUND, the arena DONE when no
round is left (R = 0), CONFIG_ERROR when the placement fails (R175, R181). -/
def beginRound (s : State) : State :=
  if s.round < s.cfg.rounds then
    match place (roundInit s) with
    | (true, t) => { loadAll t with phase := .running }
    | (false, t) => failConfig t .placementImpossible
  else { s with round := s.cfg.rounds, arenaStatus := .done }

/-! ### Turns -/

/-- The number of agents alive. -/
def aliveCount (s : State) : Nat := s.agents.countP (fun a => a.alive)

/-- The test before each pass: CYCLE below the limit and more than one agent alive (R186). -/
def passWanted (s : State) : Bool := decide (s.cycle < s.cfg.cycleLimit) && decide (1 < aliveCount s)

/-- The turn after this one: the next position of the pass, or the end of the pass, which sets TURN
to 0 and counts the pass (R184, R186). -/
def nextTurn (s : State) : State :=
  if s.turn + 1 < agentCount s.cfg then { s with turn := s.turn + 1 }
  else { s with turn := 0, cycle := s.cycle + 1 }

/-- Whether the agent at this turn is alive (R184). -/
def curAlive (s : State) : Bool := (curAgent s).alive

/-! ### Scoring -/

/-- The award of each survivor among `k` agents of which `sv` survive: `(k² − 1) div sv` (R188). -/
def award (k sv : Nat) : Nat := (k * k - 1) / sv

/-- `Score()`: every agent alive gets the award; with no survivor nothing changes (R188). -/
def score (s : State) : State :=
  { s with
    agents := s.agents.map (fun a =>
      if a.alive then { a with score := a.score + award (agentCount s.cfg) (aliveCount s) } else a) }

/-- The end of a round: scoring, then the next round's load, or DONE after round R - 1 (R175, R187,
R189, R190). -/
def endRound (s : State) : State :=
  if s.round + 1 < s.cfg.rounds then { score s with round := s.round + 1, phase := .loading }
  else { score s with round := s.cfg.rounds, arenaStatus := .done }

end Sys2Proof.Machine
end

