-- ==== Sys2Proof/Machine/Operands.lean ====
section
/-! DEFINITION. The implicit operands (spec/30_encoding.md R71): the cell and the character at the
stepping agent's CP, the Buffer, and the two channels (spec/60_exceptions.md R170, R171). -/

namespace Sys2Proof.Machine

/-- The cell at CP. -/
def cellAtCP (s : State) : Nibble := memRead s (curAgent s).cp

/-- The cell at CP written. -/
def setCellAtCP (s : State) (v : Nibble) : State := memWrite s (curAgent s).cp v

/-- The character at CP: the cells at CP - 1 and CP (R56). -/
def charAtCP (s : State) : Byte := readChar s (curAgent s).cp

/-- The character at CP written, both cells always (R56). -/
def setCharAtCP (s : State) (b : Byte) : State := writeChar s (curAgent s).cp b

/-- Buffer written (R27). -/
def setBuffer (s : State) (b : Byte) : State := { s with buffer := b }

/-- `CP <- CP + k mod N`, the pointer step of opcodes 1 to 4 (R71). -/
def moveCP (s : State) (k : Int) : State := setCP s ((curAgent s).cp + k)

/-- `OutWrite(b)`: the byte appended to what the host has received (R170). -/
def outWrite (s : State) (b : Byte) : State := { s with output := s.output ++ [b] }

/-- `InRead()`'s answer: the next byte of the host's sequence, `none` for EOF once it is exhausted
(R171). -/
def inAnswer (s : State) : Option Byte := s.cfg.input[s.inPos]?

/-- `InRead()`'s effect on the channel: a byte answered is consumed, an EOF leaves the position
(R171). -/
def inConsume (s : State) : State :=
  { s with inPos := match inAnswer s with | some _ => s.inPos + 1 | none => s.inPos }

/-- The value IN stores: the byte, or 0 at end of input (R121, R157). -/
def inValue (s : State) : Byte := (inAnswer s).getD 0#8

end Sys2Proof.Machine
end

