-- ==== Sys2Proof/Machine/Flags.lean ====
section
/-! DEFINITION. The block has no flags and no condition codes (spec/10_state.md R22). What stands in
their place is computed from the core at the moment an instruction executes: the conditions of the
four bracket instructions, and the wrapping sums of opcodes 5 to 8. -/

namespace Sys2Proof.Machine

/-- The cell-domain condition: the cell at CP is 0 (R137, R138). -/
def cellIsZero (s : State) : Bool := cellAtCP s == 0#4

/-- The character-domain condition: the character at CP is 0 (R139, R140). -/
def charIsZero (s : State) : Bool := charAtCP s == 0#8

/-- `(v + 1) mod 16` (R110). -/
def incNibble (v : Nibble) : Nibble := v + 1#4

/-- `(v - 1) mod 16` (R111). -/
def decNibble (v : Nibble) : Nibble := v - 1#4

/-- `(c + 1) mod 256` (R112). -/
def incByte (c : Byte) : Byte := c + 1#8

/-- `(c - 1) mod 256` (R113). -/
def decByte (c : Byte) : Byte := c - 1#8

end Sys2Proof.Machine
end

