-- ==== Sys2Proof/Machine/CellChar.lean ====
section
/-! DEFINITION. Cell and character arithmetic, opcodes 5 to 8 (spec/42_cell_char.md). Unsigned and
wrapping; none depends on the mode. -/

namespace Sys2Proof.Machine

/-- INC: the cell at CP plus 1, mod 16 (R110). -/
def execInc (s : State) : Host.Outcome State Fault Refusal :=
  .next (advanceEP (setCellAtCP s (incNibble (cellAtCP s))))

/-- DEC: the cell at CP minus 1, mod 16 (R111). -/
def execDec (s : State) : Host.Outcome State Fault Refusal :=
  .next (advanceEP (setCellAtCP s (decNibble (cellAtCP s))))

/-- CINC: the character at CP plus 1, mod 256 (R112). -/
def execCinc (s : State) : Host.Outcome State Fault Refusal :=
  .next (advanceEP (setCharAtCP s (incByte (charAtCP s))))

/-- CDEC: the character at CP minus 1, mod 256 (R113). -/
def execCdec (s : State) : Host.Outcome State Fault Refusal :=
  .next (advanceEP (setCharAtCP s (decByte (charAtCP s))))

end Sys2Proof.Machine
end

