-- ==== Sys2Proof/Machine/Resolver.lean ====
section
/-! DEFINITION. The bracket resolver (spec/44_control.md R131 to R136). -/

namespace Sys2Proof.Machine

/-- The direction of a scan (R132). -/
inductive Dir where
  | fwd
  | bwd
deriving DecidableEq, Repr

/-- The two bracket families, matched independently (R133). -/
inductive Family where
  /-- Opcodes 11 and 12. -/
  | cell
  /-- Opcodes 13 and 14. -/
  | char
deriving DecidableEq, Repr

/-- The code that opens a family's nesting (R132). -/
def openCode : Family → Nibble
  | .cell => 11#4
  | .char => 13#4

/-- The code that closes a family's nesting (R132). -/
def closeCode : Family → Nibble
  | .cell => 12#4
  | .char => 14#4

/-- The address step of a scan: +1 or -1 (R132). -/
def dirStep : Dir → Int
  | .fwd => 1
  | .bwd => -1

/-- The code that raises the depth (R132: forward the open code, backward the close code). -/
def raiseCode : Dir → Family → Nibble
  | .fwd, f => openCode f
  | .bwd, f => closeCode f

/-- The code that lowers the depth (R132, roles swapped backward). -/
def lowerCode : Dir → Family → Nibble
  | .fwd, f => closeCode f
  | .bwd, f => openCode f

/-- The depth after a cell of value `v` is examined; every other value is passed over (R132,
R133). -/
def nextDepth (d : Dir) (f : Family) (v : Nibble) (depth : Nat) : Nat :=
  if v = raiseCode d f then depth + 1
  else if v = lowerCode d f then depth - 1
  else depth

/-- The loop of `Resolve` from scan pointer `p` at `depth`, the start test before the read (R132,
D8). `fuel` bounds the moves of the pointer; N of them bring it back to the start `start`, so the
bound N that `resolve` gives is never what ends a scan (R135). -/
def scan (s : State) (d : Dir) (f : Family) (start : Nat) : Nat → Nat → Nat → Option Nat
  | 0, _, _ => none
  | fuel + 1, p, depth =>
    let q := wrap s.cfg.coreSize (p + dirStep d)
    if q = start then none
    else
      let depth' := nextDepth d f (memRead s q) depth
      if depth' = 0 then some q else scan s d f start fuel q depth'

/-- `Resolve(dir, open, close)` from the stepping agent's EP: the address of the matching bracket,
or `none` for failure (R132). -/
def resolve (s : State) (d : Dir) (f : Family) : Option Nat :=
  scan s d f (curAgent s).ep s.cfg.coreSize (curAgent s).ep 1

/-- `Jump(dir, open, close)` and the end of the step: on a match EP goes ON it and the trailing
advance moves past it, on a failure the agent halts with UNMATCHED (R94, R98, R134). -/
def jump (s : State) (d : Dir) (f : Family) : State :=
  match resolve s d f with
  | some q => advanceEP (setEP s q)
  | none => takeHalt s .unmatched

end Sys2Proof.Machine
end

