-- ==== Sys2Proof/Machine/Control.lean ====
section
/-! DEFINITION. Halt and the four bracket jumps, opcodes 0 and 11 to 14 (spec/44_control.md). None
writes the core, CP or Buffer, and none depends on the mode. -/

namespace Sys2Proof.Machine

/-- HALT: the agent halts with HALT_OP (R130). -/
def execHalt (s : State) : Host.Outcome State Fault Refusal := .next (takeHalt s .haltOp)

/-- OPEN: if the cell at CP is 0, jump forward past the matching CLOSE (R137). -/
def execOpen (s : State) : Host.Outcome State Fault Refusal :=
  if cellIsZero s then .next (jump s .fwd .cell) else .next (advanceEP s)

/-- CLOSE: if the cell at CP is not 0, jump back past the matching OPEN (R138). -/
def execClose (s : State) : Host.Outcome State Fault Refusal :=
  if cellIsZero s then .next (advanceEP s) else .next (jump s .bwd .cell)

/-- COPEN: if the character at CP is 0, jump forward past the matching CCLOSE (R139). -/
def execCopen (s : State) : Host.Outcome State Fault Refusal :=
  if charIsZero s then .next (jump s .fwd .char) else .next (advanceEP s)

/-- CCLOSE: if the character at CP is not 0, jump back past the matching COPEN (R140). -/
def execCclose (s : State) : Host.Outcome State Fault Refusal :=
  if charIsZero s then .next (advanceEP s) else .next (jump s .bwd .char)

end Sys2Proof.Machine
end

