-- ==== Sys2Proof/Machine/IoSwap.lean ====
section
/-! DEFINITION. Character I/O and swap, opcodes 9, 10 and 15 (spec/43_io_swap.md). In ARENA mode each
only advances EP (R123). -/

namespace Sys2Proof.Machine

/-- OUT: the character at CP to the output channel (R120, R123). -/
def execOut (s : State) : Host.Outcome State Fault Refusal :=
  match s.cfg.mode with
  | .single => .next (advanceEP (outWrite s (charAtCP s)))
  | .arena => .next (advanceEP s)

/-- IN: one byte of the input channel, 0 at end of input, written at CP (R121, R123). -/
def execIn (s : State) : Host.Outcome State Fault Refusal :=
  match s.cfg.mode with
  | .single => .next (advanceEP (setCharAtCP (inConsume s) (inValue s)))
  | .arena => .next (advanceEP s)

/-- SWAP: the character at CP and Buffer exchanged (R122, R123). -/
def execSwap (s : State) : Host.Outcome State Fault Refusal :=
  match s.cfg.mode with
  | .single => .next (advanceEP (setBuffer (setCharAtCP s s.buffer) (charAtCP s)))
  | .arena => .next (advanceEP s)

end Sys2Proof.Machine
end

