-- ==== Sys2Proof/Machine/Pointer.lean ====
section
/-! DEFINITION. The cell-pointer instructions, opcodes 1 to 4 (spec/41_pointer.md). None depends on
the mode and none touches the core. -/

namespace Sys2Proof.Machine

/-- NEXT: `CP <- (CP + 1) mod N` (R100). -/
def execNext (s : State) : Host.Outcome State Fault Refusal := .next (advanceEP (moveCP s 1))

/-- PREV: `CP <- (CP - 1) mod N` (R101). -/
def execPrev (s : State) : Host.Outcome State Fault Refusal := .next (advanceEP (moveCP s (-1)))

/-- NEXT2: `CP <- (CP + 2) mod N` (R102). -/
def execNext2 (s : State) : Host.Outcome State Fault Refusal := .next (advanceEP (moveCP s 2))

/-- PREV2: `CP <- (CP - 2) mod N` (R103). -/
def execPrev2 (s : State) : Host.Outcome State Fault Refusal := .next (advanceEP (moveCP s (-2)))

end Sys2Proof.Machine
end

