-- ==== Sys2Proof/Machine/Dispatch.lean ====
section
/-! DEFINITION. The dispatch of a decoded instruction (spec/40_step.md R92): one arm per opcode. -/

namespace Sys2Proof.Machine

/-- The perform part of a step of the stepping agent, with its trailing advance or halt (R92, R93,
R95). -/
def exec (i : Instr) (s : State) : Host.Outcome State Fault Refusal :=
  match i with
  | .halt => Sys2Proof.Machine.execHalt s
  | .next => Sys2Proof.Machine.execNext s
  | .prev => Sys2Proof.Machine.execPrev s
  | .next2 => Sys2Proof.Machine.execNext2 s
  | .prev2 => Sys2Proof.Machine.execPrev2 s
  | .inc => Sys2Proof.Machine.execInc s
  | .dec => Sys2Proof.Machine.execDec s
  | .cinc => Sys2Proof.Machine.execCinc s
  | .cdec => Sys2Proof.Machine.execCdec s
  | .out => Sys2Proof.Machine.execOut s
  | .inp => Sys2Proof.Machine.execIn s
  | .opn => Sys2Proof.Machine.execOpen s
  | .close => Sys2Proof.Machine.execClose s
  | .copen => Sys2Proof.Machine.execCopen s
  | .cclose => Sys2Proof.Machine.execCclose s
  | .swap => Sys2Proof.Machine.execSwap s

end Sys2Proof.Machine
end

