-- ==== Sys2Proof/Machine/RunControl.lean ====
section
/-! DEFINITION. The run controllers: one transition of a SINGLE run (spec/60_exceptions.md R164) and of
an arena run (R175, R184, R186), each calling the step of an agent (spec/40_step.md R98). -/

namespace Sys2Proof.Machine

/-- The outcome of `o` with `f` applied to a next state; a stop stays. -/
def mapNext (f : State → State) (o : Host.Outcome State Fault Refusal) :
    Host.Outcome State Fault Refusal :=
  match o with
  | .next s => .next (f s)
  | .fault r => .fault r
  | .refused r => .refused r

/-- `Step(A)` of the stepping agent: fetch, decode, perform (R91, R98). The opcode is read once, from
the core as the step begins. -/
def stepAgent (s : State) : Host.Outcome State Fault Refusal := exec (decode (fetch s)) s

/-- `ITER <- ITER + 1` (R165). -/
def countIter (s : State) : State := { s with iter := s.iter + 1 }

/-- `run_status <- STOPPED` (R153). -/
def stopRun (s : State) : State := { s with runStatus := .stopped }

/-- One round of the loop of `RunSingle` (R164): the run that has ended has no step, an exhausted
budget stops the run, otherwise agent 0 steps and ITER counts it. -/
def runSingle (s : State) : Host.Outcome State Fault Refusal :=
  match s.runStatus with
  | .running =>
    if s.cfg.maxIter ≤ s.iter then .next (stopRun s) else mapNext countIter (stepAgent s)
  | .halted => .fault .runOver
  | .stopped => .fault .runOver

/-- The boot of a SINGLE run with the one program its configuration holds (R203, R37). -/
def startSingle (s : State) : Host.Outcome State Fault Refusal :=
  match s.cfg.programs with
  | [p] => .next (bootSingle p s)
  | _ => .refused .notOneProgram

/-- One transition of a SINGLE run; a core of fewer than 2 cells is refused (R156). -/
def singleStep (s : State) : Host.Outcome State Fault Refusal :=
  if s.cfg.coreSize < 2 then .refused .coreTooSmall
  else
    match s.phase with
    | .loading => startSingle s
    | .running => runSingle s

/-- One turn of a pass: the agent at this turn steps if it is alive and is skipped if it is dead
(R184). -/
def turnStep (s : State) : Host.Outcome State Fault Refusal :=
  if curAlive s then mapNext nextTurn (stepAgent s) else .next (nextTurn s)

/-- The round loop: before each pass the test of R186, then the pass's turns. -/
def runRound (s : State) : Host.Outcome State Fault Refusal :=
  if s.turn = 0 ∧ passWanted s = false then .next (endRound s) else turnStep s

/-- One transition of an arena run (R175, R190). -/
def arenaStep (s : State) : Host.Outcome State Fault Refusal :=
  match s.arenaStatus with
  | .idle => .next (startArena s)
  | .running =>
    match s.phase with
    | .loading => .next (beginRound s)
    | .running => runRound s
  | .done => .fault .runOver
  | .configError => .fault .runOver

end Sys2Proof.Machine
end

