-- ==== Sys2Proof/Machine/Step.lean ====
section
/-! DEFINITION. One transition of the machine, in the mode its configuration says
(spec/00_scope.md R5). -/

namespace Sys2Proof.Machine

/-- One transition: of the SINGLE run controller or of the arena scheduler. Each performs at most one
Step of one agent (R10, R194). -/
def step (s : State) : Host.Outcome State Fault Refusal :=
  match s.cfg.mode with
  | .single => singleStep s
  | .arena => arenaStep s

/-- The state with the instruction of number `w` in the cell the next step fetches (log 1, log 15). -/
def State.withFetchWord (s : State) (nbits w : Nat) : State :=
  if nbits = 0 then s else storeFetchCell s w

end Sys2Proof.Machine
end

