-- ==== Sys2Proof/Machine/Ports.lean ====
section
/-! DEFINITION. The host interface: the configured run that has not started, the codes of the status
ports (spec/10_state.md R42) and what the host reads when a run has ended (spec/60_exceptions.md
R166, R189). -/

namespace Sys2Proof.Machine

/-! ### Codes of the ports -/

/-- MODE: SINGLE 0, ARENA 1 (R42). -/
def modeCode : Mode → BitVec 1
  | .single => 0#1
  | .arena => 1#1

/-- halt_cause: NONE 0, HALT_OP 1, UNMATCHED 2 (R30). -/
def haltCauseCode : HaltCause → BitVec 2
  | .none => 0#2
  | .haltOp => 1#2
  | .unmatched => 2#2

/-- run_status: RUNNING 0, HALTED 1, STOPPED 2 (R42). -/
def runStatusCode : RunStatus → BitVec 2
  | .running => 0#2
  | .halted => 1#2
  | .stopped => 2#2

/-- arena_status: IDLE 0, RUNNING 1, DONE 2, CONFIG_ERROR 3 (R42). -/
def arenaStatusCode : ArenaStatus → BitVec 2
  | .idle => 0#2
  | .running => 1#2
  | .done => 2#2
  | .configError => 3#2

/-- config_error: 0 none, 1 to 4 as R33 names them (R42). -/
def configErrorCode : Option ConfigError → BitVec 3
  | none => 0#3
  | some .programTooLong => 1#3
  | some .tooFewAgents => 2#3
  | some .placementImpossible => 3#3
  | some .badCoreSize => 4#3

/-! ### Before a run -/

/-- The host has given a configuration and the run has not started (R205; log 1): the first step boots
the SINGLE run or constructs and checks the arena. An arena is IDLE here, as R190 says. DESIGN CHOICE
(log 18, unsafe to lean on): the spec gives no state before the first reset event (R200), and every
other field holds what `State.reset` holds, but for an empty agent table and the phase: an all-zero
core, and run_status RUNNING before the boot. -/
def hostConfigure (c : RunConfig) : State :=
  { State.reset with cfg := c, agents := [], phase := .loading }

/-! ### After a run -/

/-- What the host observes at the end of a SINGLE run (R166). -/
structure SingleEnd where
  status : RunStatus
  output : List Byte
  core : Memory
  cp : Nat
  ep : Nat
  haltCause : HaltCause
  buffer : Byte
  iter : Nat
deriving DecidableEq, Repr

/-- The end of a SINGLE run, once run_status is HALTED or STOPPED (R166). -/
def singleEnd (s : State) : Option SingleEnd :=
  match s.cfg.mode, s.runStatus with
  | .single, .halted | .single, .stopped =>
    some { status := s.runStatus, output := s.output, core := s.core, cp := (curAgent s).cp,
           ep := (curAgent s).ep, haltCause := (curAgent s).haltCause, buffer := s.buffer,
           iter := s.iter }
  | _, _ => none

/-- The result of an arena run: the score vector, only at DONE (R189). -/
def scoreVector (s : State) : Option (List Nat) :=
  match s.cfg.mode, s.arenaStatus with
  | .arena, .done => some (s.agents.map (fun a => a.score))
  | _, _ => none

end Sys2Proof.Machine
end

