-- ==== Sys2Proof/Safety.lean ====
section
/-! DEFINITION. The terms statements are written in: frames, when a run has ended, the invariant every
step keeps, what a halt leaves, and the resolver's and the loader's effect said without their loops. -/

namespace Sys2Proof.Machine

/-! ### Frames -/

/-- Every address reads the same in both states. -/
def CellsKept (s t : State) : Prop := ∀ x : Int, memRead t x = memRead s x

/-- Every address but those of the cell at `p` reads the same in both states (R52). -/
def CellsKeptButCell (s t : State) (p : Int) : Prop :=
  ∀ x : Int, wrap s.cfg.coreSize x ≠ wrap s.cfg.coreSize p → memRead t x = memRead s x

/-- Every address but those of the two cells of the character at `p` reads the same in both states
(R54). -/
def CellsKeptButChar (s t : State) (p : Int) : Prop :=
  ∀ x : Int, wrap s.cfg.coreSize x ≠ wrap s.cfg.coreSize p →
    wrap s.cfg.coreSize x ≠ wrap s.cfg.coreSize (p - 1) → memRead t x = memRead s x

/-- The agent table with `b` as the stepping agent's entry and every other entry kept. -/
def withCur (s : State) (b : Agent) : List Agent := s.agents.set (cur s) b

/-- The entry `a` with EP moved to the cell after `e`, mod N (R93, R94). -/
def epAfter (s : State) (a : Agent) (e : Nat) : Agent :=
  { a with ep := (e + 1) % s.cfg.coreSize }

/-- What a halt of the stepping agent, whose entry is `a`, leaves (R161): its cause recorded, SINGLE
HALTED or the ARENA agent dead, nothing else changed. -/
def afterHalt (s : State) (a : Agent) (c : HaltCause) : State :=
  match s.cfg.mode with
  | .single => { s with agents := withCur s { a with haltCause := c }, runStatus := .halted }
  | .arena => { s with agents := withCur s { a with haltCause := c, alive := false } }

/-! ### The end of a run -/

/-- The run has ended (R162, R164, R190). -/
def Finished (s : State) : Prop :=
  match s.cfg.mode with
  | .single => s.phase = .running ∧ s.runStatus ≠ .running
  | .arena => s.arenaStatus = .done ∨ s.arenaStatus = .configError

/-! ### The invariant -/

/-- The legal values of the pointers of an agent's entry (R24, R25, R42). -/
def Agent.InCore (n : Nat) (a : Agent) : Prop := a.cp < n ∧ a.ep < n ∧ a.start < n

/-- The entry of a loaded agent is in one of R185's states ALIVE and DEAD: alive with no halt cause,
or dead with one. -/
def Agent.AliveOrDead (a : Agent) : Prop := a.alive = true ↔ a.haltCause = .none

/-- What holds of a SINGLE state (R31, R32, R40, R42). -/
structure SingleInv (s : State) : Prop where
  /-- ITER stays within the budget. -/
  iter_le : s.iter ≤ s.cfg.maxIter
  /-- The input position stays within the host's sequence. -/
  inPos_le : s.inPos ≤ s.cfg.input.length
  /-- A booted run has exactly agent 0. -/
  one_agent : s.phase = .running → s.agents.length = 1
  /-- Agent 0 has a halt cause exactly when the run is HALTED. -/
  halted_iff : s.phase = .running →
    ∀ a ∈ s.agents, (s.runStatus = .halted ↔ a.haltCause ≠ .none)

/-- What holds of an ARENA state once the run has started (R33 to R36, R42, R176, R185, R188). -/
structure ArenaInv (s : State) : Prop where
  /-- The table has one entry for each program. -/
  agent_count : s.agents.length = s.cfg.programs.length
  /-- The arena is CONFIG_ERROR exactly when an error is named. -/
  error_iff : s.arenaStatus = .configError ↔ s.configError ≠ none
  /-- While it runs the configuration check has passed. -/
  checked : s.arenaStatus = .running → configCheck s.cfg = none
  /-- ROUND stays within the round count. -/
  round_le : s.round ≤ s.cfg.rounds
  /-- While passes run, ROUND is the index of a round. -/
  round_lt : s.arenaStatus = .running → s.phase = .running → s.round < s.cfg.rounds
  /-- At DONE every round has been scored. -/
  done_round : s.arenaStatus = .done → s.round = s.cfg.rounds
  /-- CYCLE stays within the cycle limit. -/
  cycle_le : s.cycle ≤ s.cfg.cycleLimit
  /-- TURN is a position of the turn order. -/
  turn_le : s.turn ≤ s.cfg.programs.length
  /-- While the arena runs, TURN is the position of an agent. -/
  turn_lt : s.arenaStatus = .running → s.turn < s.cfg.programs.length
  /-- Inside a pass the cycle limit is not reached yet. -/
  pass_open : s.turn ≠ 0 → s.cycle < s.cfg.cycleLimit
  /-- While passes run, every agent is ALIVE or DEAD. -/
  alive_or_dead : s.arenaStatus = .running → s.phase = .running →
    ∀ a ∈ s.agents, a.AliveOrDead
  /-- A score is at most the greatest award, K² - 1, of each round scored so far. -/
  score_le : ∀ a ∈ s.agents,
    a.score ≤ s.round * (s.cfg.programs.length * s.cfg.programs.length - 1)

/-- The invariant of the machine: a legal core size, a canonical core of addresses below N, pointers
in the core, and what holds in the mode. -/
structure State.Inv (s : State) : Prop where
  /-- N ≥ 2 (R6). -/
  core_size : 2 ≤ s.cfg.coreSize
  /-- The core is in its canonical form (log 9). -/
  core_wf : Memory.wf s.core
  /-- The core has no cell outside 0 … N - 1 (R21). -/
  core_lt : ∀ c ∈ s.core, c.1 < s.cfg.coreSize
  /-- Every pointer is a core address (R24, R25). -/
  pointers : ∀ a ∈ s.agents, a.InCore s.cfg.coreSize
  /-- The SINGLE part. -/
  single : s.cfg.mode = .single → SingleInv s
  /-- The ARENA part. -/
  arena : s.cfg.mode = .arena → s.arenaStatus ≠ .idle → ArenaInv s

/-! ### The resolver without its loop -/

/-- What an examined cell of value `v` adds to the depth (R132, R133). -/
def depthWeight (d : Dir) (f : Family) (v : Nibble) : Int :=
  if v = raiseCode d f then 1 else if v = lowerCode d f then -1 else 0

/-- The depth after the first `k` cells of the scan from `start` are examined, starting at 1
(R132). -/
def depthAt (s : State) (d : Dir) (f : Family) (start : Nat) : Nat → Int
  | 0 => 1
  | k + 1 => depthAt s d f start k + depthWeight d f (memRead s (start + dirStep d * (k + 1)))

/-- `q` is the match of the bracket at `start`: the first of the at most N - 1 cells of the scan at
which the depth is 0, the depth being at least 1 before it (R132, R135). -/
def IsMatch (s : State) (d : Dir) (f : Family) (start q : Nat) : Prop :=
  ∃ k : Nat, 0 < k ∧ k < s.cfg.coreSize ∧ q = wrap s.cfg.coreSize (start + dirStep d * k) ∧
    depthAt s d f start k = 0 ∧ ∀ j < k, 1 ≤ depthAt s d f start j

/-! ### The loader without its loop -/

/-- A core `get` of `n` cells holds the instructions `is` from `o` on, at each address the last one
written there (R201, R202). -/
def HoldsProgram (get : Nat → Nibble) (n o : Nat) (is : List Instr) : Prop :=
  ∀ (j : Nat) (i : Instr), is[j]? = some i →
    (∀ j', j < j' → j' < is.length → (o + j') % n ≠ (o + j) % n) → get ((o + j) % n) = opcode i

/-- Address `a` is not one a load of `len` cells from `o` writes (R201). -/
def OutsideLoad (n o len a : Nat) : Prop := ∀ j < len, (o + j) % n ≠ a

/-! ### Runs -/

/-- `k` steps of the machine from `s` end in the state `t`. -/
def RunsTo (k : Nat) (s t : State) : Prop := Host.Core.run Sys2Proof.core k s = Host.Outcome.next t

/-- The transition from `s` performs a Step of an agent: in SINGLE mode within the budget of a run
under way, in ARENA mode at the turn of a living agent in a pass (R90, R164, R184, R186). -/
def performsStep (s : State) : Bool :=
  match s.cfg.mode with
  | .single =>
    decide (2 ≤ s.cfg.coreSize) && decide (s.phase = .running) &&
      decide (s.runStatus = .running) && decide (s.iter < s.cfg.maxIter)
  | .arena =>
    decide (s.arenaStatus = .running) && decide (s.phase = .running) && curAlive s &&
      (decide (s.turn ≠ 0) || passWanted s)

/-- How many of the `k` transitions from `s` perform a Step of an agent (R165, R191). -/
def agentSteps : Nat → State → Nat
  | 0, _ => 0
  | k + 1, s =>
    (if performsStep s then 1 else 0) +
      match step s with
      | .next t => agentSteps k t
      | .fault _ => 0
      | .refused _ => 0

end Sys2Proof.Machine
end

