-- ==== Sys2Proof/Certificates/Slice0/Obligations.lean ====
section
/-! DEFINITION. The statements about the machine, each named for what it states and citing the rule of
spec/ it formalises. Nothing is proved here. Throughout, `s.agents[cur s]? = some a` says that `a` is
the entry of the agent taking the step. -/

open Sys2Proof Sys2Proof.Machine

/-! ### Encoding and program text (30_encoding.md) -/

/-- R72: each of the 16 cell values decodes to its instruction. -/
def Obligations.EveryCellValueDecodesByTheMap : Prop :=
  decode 0b0000#4 = .halt ∧ decode 0b0001#4 = .next ∧ decode 0b0010#4 = .prev ∧
  decode 0b0011#4 = .next2 ∧ decode 0b0100#4 = .prev2 ∧ decode 0b0101#4 = .inc ∧
  decode 0b0110#4 = .dec ∧ decode 0b0111#4 = .cinc ∧ decode 0b1000#4 = .cdec ∧
  decode 0b1001#4 = .out ∧ decode 0b1010#4 = .inp ∧ decode 0b1011#4 = .opn ∧
  decode 0b1100#4 = .close ∧ decode 0b1101#4 = .copen ∧ decode 0b1110#4 = .cclose ∧
  decode 0b1111#4 = .swap

/-- R70, R72: decoding and encoding are inverse on whole sequences, one cell an instruction. -/
def Obligations.CodeSequencesRoundTrip : Prop :=
  (∀ is : List Instr, decodeAll (encodeAll is) = is ∧ (encodeAll is).length = is.length) ∧
  (∀ cells : List Nibble, encodeAll (decodeAll cells) = cells) ∧
  (∀ (i : Instr) (rest : List Nibble), decodeCells (encode i ++ rest) = .ok (i, rest))

/-- R75, R76, R78: a character is recognised exactly when it is a symbol, a byte exactly when it is
a symbol's ASCII code, and reading bytes as characters agrees with that. -/
def Obligations.OnlyTheSixteenSymbolsAreRecognised : Prop :=
  (∀ (ch : Char) (i : Instr), ofSymbol ch = some i ↔ ch = symbol i) ∧
  (∀ (b : Byte) (i : Instr), ofByte b = some i ↔ b = asciiCode i) ∧
  (∀ bs : List Byte, recognise (textOfBytes bs) = bs.filterMap ofByte)

/-- The spec's own inference (its R79, from R72, R75 and R76): the listing of the cells 0 … L-1 after
a load is the program text without its ignored characters. -/
def Obligations.ListingALoadReproducesTheText : Prop :=
  ∀ (n : Nat) (p : Program) (m : Memory), 0 < n → programLength p ≤ n →
    listing ((List.range (programLength p)).map (fun a => (load n p m 0).core.get a)) =
      p.filter (fun ch => (ofSymbol ch).isSome)

/-! ### The core and the codec (20_memory.md) -/

/-- R52, and R51 and R53: a write changes the one cell its address is mod N, and reads wrap. -/
def Obligations.WriteChangesExactlyOneCell : Prop :=
  ∀ (s : State) (x : Int) (v : Nibble), 0 < s.cfg.coreSize →
    (∀ y : Int, memRead (memWrite s x v) y =
      if y % s.cfg.coreSize = x % s.cfg.coreSize then v else memRead s y) ∧
    memWrite s x v = { s with core := (memWrite s x v).core } ∧
    (∀ y k : Int, memRead s (y + k * s.cfg.coreSize) = memRead s y)

/-- R54, R55, and R57: the high nibble of a character is the cell before it, the low nibble the cell
itself; writing one changes those two cells only. -/
def Obligations.CharacterIsTwoAdjacentCells : Prop :=
  ∀ (s : State) (p : Int) (b : Byte), 2 ≤ s.cfg.coreSize →
    (readChar s p).toNat = 16 * (memRead s (p - 1)).toNat + (memRead s p).toNat ∧
    (memRead (writeChar s p b) (p - 1)).toNat = b.toNat / 16 ∧
    (memRead (writeChar s p b) p).toNat = b.toNat % 16 ∧
    CellsKeptButChar s (writeChar s p b) p ∧
    writeChar s p b = { s with core := (writeChar s p b).core }

/-- The codec round-trips: the spec's own inference (its R69) from R54 and R55. -/
def Obligations.CodecRoundTrips : Prop :=
  ∀ (s : State) (p : Int) (b : Byte), 2 ≤ s.cfg.coreSize → readChar (writeChar s p b) p = b

/-- Log 9 (the model's representation of the core, its own choice): two canonical cores that read
alike at every address are equal, so writing back what a cell holds changes nothing, and writes to
two different cells commute. -/
def Obligations.CanonicalCoresThatReadAlikeAreEqual : Prop :=
  (∀ m m' : Memory, Memory.wf m → Memory.wf m' → (∀ a, m.get a = m'.get a) → m = m') ∧
  (∀ (m : Memory) (a : Nat), Memory.wf m → m.set a (m.get a) = m) ∧
  (∀ (m : Memory) (a b : Nat) (v w : Nibble), Memory.wf m → a ≠ b →
    (m.set a v).set b w = (m.set b w).set a v)

/-! ### Cell-pointer instructions (41_pointer.md) -/

/-- R100, with the whole frame: nothing but CP and EP of the stepping agent changes. -/
def Obligations.NextMovesCellPointerForwardByOne : Prop :=
  ∀ (s : State) (a : Agent), s.agents[cur s]? = some a →
    ∃ t, exec .next s = .next t ∧ CellsKept s t ∧
      t = { s with
        agents := withCur s (epAfter s { a with cp := (a.cp + 1) % s.cfg.coreSize } a.ep) }

/-- R101, with the whole frame. -/
def Obligations.PrevMovesCellPointerBackByOne : Prop :=
  ∀ (s : State) (a : Agent), 2 ≤ s.cfg.coreSize → s.agents[cur s]? = some a →
    ∃ t, exec .prev s = .next t ∧ CellsKept s t ∧
      t = { s with
        agents := withCur s (epAfter s { a with cp := (a.cp + s.cfg.coreSize - 1) % s.cfg.coreSize } a.ep) }

/-- R102, with the whole frame. -/
def Obligations.Next2MovesCellPointerForwardByTwo : Prop :=
  ∀ (s : State) (a : Agent), s.agents[cur s]? = some a →
    ∃ t, exec .next2 s = .next t ∧ CellsKept s t ∧
      t = { s with
        agents := withCur s (epAfter s { a with cp := (a.cp + 2) % s.cfg.coreSize } a.ep) }

/-- R103, with the whole frame. -/
def Obligations.Prev2MovesCellPointerBackByTwo : Prop :=
  ∀ (s : State) (a : Agent), 2 ≤ s.cfg.coreSize → s.agents[cur s]? = some a →
    ∃ t, exec .prev2 s = .next t ∧ CellsKept s t ∧
      t = { s with
        agents := withCur s (epAfter s { a with cp := (a.cp + s.cfg.coreSize - 2) % s.cfg.coreSize } a.ep) }

/-- The laws of the family, the spec's own inference (its R104) from R100 to R103: the written CP is
a core address; each of the four pairs of opposite moves restores CP; two moves by one are one move
by two. -/
def Obligations.PointerMovesObeyTheFamilyLaws : Prop :=
  ∀ (s : State) (a : Agent), 2 ≤ s.cfg.coreSize → s.agents[cur s]? = some a →
    a.cp < s.cfg.coreSize →
    (∀ i ∈ [Instr.next, .prev, .next2, .prev2], ∃ t, exec i s = .next t ∧
      (curAgent t).cp < s.cfg.coreSize) ∧
    (∀ p ∈ [(Instr.next, Instr.prev), (.prev, .next), (.next2, .prev2), (.prev2, .next2)],
      ∃ t u, exec p.1 s = .next t ∧ exec p.2 t = .next u ∧ (curAgent u).cp = a.cp) ∧
    (∀ p ∈ [(Instr.next, Instr.next2), (.prev, .prev2)],
      ∃ t u v, exec p.1 s = .next t ∧ exec p.1 t = .next u ∧ exec p.2 s = .next v ∧
        (curAgent u).cp = (curAgent v).cp)

/-! ### Cell and character arithmetic (42_cell_char.md) -/

/-- R110, with the whole frame: one cell and EP change. -/
def Obligations.IncAddsOneToTheCellModSixteen : Prop :=
  ∀ (s : State) (a : Agent), s.agents[cur s]? = some a →
    ∃ t, exec .inc s = .next t ∧
      (memRead t a.cp).toNat = ((memRead s a.cp).toNat + 1) % 16 ∧ CellsKeptButCell s t a.cp ∧
      t = { s with core := t.core, agents := withCur s (epAfter s a a.ep) }

/-- R111, with the whole frame. -/
def Obligations.DecTakesOneFromTheCellModSixteen : Prop :=
  ∀ (s : State) (a : Agent), s.agents[cur s]? = some a →
    ∃ t, exec .dec s = .next t ∧
      (memRead t a.cp).toNat = ((memRead s a.cp).toNat + 15) % 16 ∧ CellsKeptButCell s t a.cp ∧
      t = { s with core := t.core, agents := withCur s (epAfter s a a.ep) }

/-- R112, with the whole frame: the two cells of the character and EP change. -/
def Obligations.CincAddsOneToTheCharacterMod256 : Prop :=
  ∀ (s : State) (a : Agent), 2 ≤ s.cfg.coreSize → s.agents[cur s]? = some a →
    ∃ t, exec .cinc s = .next t ∧
      (readChar t a.cp).toNat = ((readChar s a.cp).toNat + 1) % 256 ∧ CellsKeptButChar s t a.cp ∧
      t = { s with core := t.core, agents := withCur s (epAfter s a a.ep) }

/-- R113, with the whole frame. -/
def Obligations.CdecTakesOneFromTheCharacterMod256 : Prop :=
  ∀ (s : State) (a : Agent), 2 ≤ s.cfg.coreSize → s.agents[cur s]? = some a →
    ∃ t, exec .cdec s = .next t ∧
      (readChar t a.cp).toNat = ((readChar s a.cp).toNat + 255) % 256 ∧ CellsKeptButChar s t a.cp ∧
      t = { s with core := t.core, agents := withCur s (epAfter s a a.ep) }

/-- The laws of the family, the spec's own inference (its R114) from R110 to R113: each of INC and
DEC undoes the other on the whole core when performed one after the other, and so do CINC and CDEC;
INC and CINC leave the same cell at CP, and CINC changes the cell before it exactly when the cell at
CP was 15. -/
def Obligations.ArithmeticObeysTheFamilyLaws : Prop :=
  ∀ (s : State) (a : Agent), 2 ≤ s.cfg.coreSize → s.agents[cur s]? = some a →
    (∀ p ∈ [(Instr.inc, Instr.dec), (.dec, .inc), (.cinc, .cdec), (.cdec, .cinc)],
      ∃ t u, exec p.1 s = .next t ∧ exec p.2 t = .next u ∧ CellsKept s u) ∧
    (∃ t u, exec .inc s = .next t ∧ exec .cinc s = .next u ∧
      memRead u a.cp = memRead t a.cp ∧ memRead t (a.cp - 1) = memRead s (a.cp - 1) ∧
      (memRead u (a.cp - 1) ≠ memRead s (a.cp - 1) ↔ memRead s a.cp = 15#4))

/-! ### Character I/O and swap (43_io_swap.md) -/

/-- R120, with the whole frame: in SINGLE mode one byte is appended to the output; in ARENA mode only
EP moves. -/
def Obligations.OutEmitsTheCharacterAtCP : Prop :=
  ∀ (s : State) (a : Agent), s.agents[cur s]? = some a →
    (s.cfg.mode = .single → ∃ t, exec .out s = .next t ∧ CellsKept s t ∧
      t = { s with output := s.output ++ [readChar s a.cp],
                   agents := withCur s (epAfter s a a.ep) }) ∧
    (s.cfg.mode = .arena → ∃ t, exec .out s = .next t ∧ CellsKept s t ∧
      t = { s with agents := withCur s (epAfter s a a.ep) })

/-- R121, and R171, with the whole frame: in SINGLE mode a byte that is left is consumed and stored,
and at end of input 0 is stored and the position stays; in ARENA mode only EP moves. -/
def Obligations.InStoresTheNextByteOrZero : Prop :=
  ∀ (s : State) (a : Agent), s.agents[cur s]? = some a →
    (∀ b, 2 ≤ s.cfg.coreSize → s.cfg.mode = .single → s.cfg.input[s.inPos]? = some b →
      ∃ t, exec .inp s = .next t ∧ readChar t a.cp = b ∧ CellsKeptButChar s t a.cp ∧
        t = { s with core := t.core, inPos := s.inPos + 1,
                     agents := withCur s (epAfter s a a.ep) }) ∧
    (2 ≤ s.cfg.coreSize → s.cfg.mode = .single → s.cfg.input[s.inPos]? = none →
      ∃ t, exec .inp s = .next t ∧ readChar t a.cp = 0#8 ∧ CellsKeptButChar s t a.cp ∧
        t = { s with core := t.core, agents := withCur s (epAfter s a a.ep) }) ∧
    (s.cfg.mode = .arena → ∃ t, exec .inp s = .next t ∧ CellsKept s t ∧
      t = { s with agents := withCur s (epAfter s a a.ep) })

/-- R122, with the whole frame: in SINGLE mode the character at CP and Buffer are exchanged. R123: in
ARENA mode opcodes 9, 10 and 15 advance EP and change nothing else. -/
def Obligations.SwapExchangesWithBufferAndArenaIoIsANoOp : Prop :=
  ∀ (s : State) (a : Agent), s.agents[cur s]? = some a →
    (2 ≤ s.cfg.coreSize → s.cfg.mode = .single →
      ∃ t, exec .swap s = .next t ∧ readChar t a.cp = s.buffer ∧ CellsKeptButChar s t a.cp ∧
        t = { s with core := t.core, buffer := readChar s a.cp,
                     agents := withCur s (epAfter s a a.ep) }) ∧
    (s.cfg.mode = .arena → ∀ i ∈ [Instr.out, .inp, .swap],
      ∃ t, exec i s = .next t ∧ CellsKept s t ∧
        t = { s with agents := withCur s (epAfter s a a.ep) })

/-! ### What the host reads (10_state.md R42, 60_exceptions.md R166) -/

/-- R42, with the codes of R30 and R33: the codes of the status ports; and R166: a SINGLE run has its
end exactly when run_status is HALTED or STOPPED, and the host then reads that status, the output, the
core, agent 0's CP, EP and halt_cause, Buffer and ITER. -/
def Obligations.HostReadsThePortCodesAndTheEndOfASingleRun : Prop :=
  (modeCode .single = 0#1 ∧ modeCode .arena = 1#1) ∧
  (haltCauseCode .none = 0#2 ∧ haltCauseCode .haltOp = 1#2 ∧ haltCauseCode .unmatched = 2#2) ∧
  (runStatusCode .running = 0#2 ∧ runStatusCode .halted = 1#2 ∧ runStatusCode .stopped = 2#2) ∧
  (arenaStatusCode .idle = 0#2 ∧ arenaStatusCode .running = 1#2 ∧ arenaStatusCode .done = 2#2 ∧
    arenaStatusCode .configError = 3#2) ∧
  (configErrorCode none = 0#3 ∧ configErrorCode (some .programTooLong) = 1#3 ∧
    configErrorCode (some .tooFewAgents) = 2#3 ∧
    configErrorCode (some .placementImpossible) = 3#3 ∧
    configErrorCode (some .badCoreSize) = 4#3) ∧
  (∀ (s : State) (a : Agent), s.cfg.mode = .single → s.runStatus ≠ .running →
    s.agents[0]? = some a →
    singleEnd s = some { status := s.runStatus, output := s.output, core := s.core, cp := a.cp,
                         ep := a.ep, haltCause := a.haltCause, buffer := s.buffer,
                         iter := s.iter }) ∧
  (∀ s : State, s.cfg.mode = .single → s.runStatus = .running → singleEnd s = none) ∧
  (∀ s : State, s.cfg.mode = .arena → singleEnd s = none)

/-! ### Halt and brackets (44_control.md) -/

/-- R130: HALT takes the halt and changes nothing else; EP stays. -/
def Obligations.HaltOpcodeHaltsTheAgent : Prop :=
  ∀ (s : State) (a : Agent), s.agents[cur s]? = some a →
    ∃ t, exec .halt s = .next t ∧ CellsKept s t ∧ t = afterHalt s a .haltOp

/-- R137: OPEN advances when the cell at CP is not 0; otherwise it goes past the match, or halts with
UNMATCHED when there is none. -/
def Obligations.OpenJumpsForwardOnZeroCell : Prop :=
  ∀ (s : State) (a : Agent), s.agents[cur s]? = some a →
    ∃ t, exec .opn s = .next t ∧ CellsKept s t ∧
      (memRead s a.cp ≠ 0#4 → t = { s with agents := withCur s (epAfter s a a.ep) }) ∧
      (memRead s a.cp = 0#4 → ∀ q, resolve s .fwd .cell = some q →
        t = { s with agents := withCur s (epAfter s a q) }) ∧
      (memRead s a.cp = 0#4 → resolve s .fwd .cell = none → t = afterHalt s a .unmatched)

/-- R138: CLOSE advances when the cell at CP is 0; otherwise it goes back past the match, or halts
with UNMATCHED. -/
def Obligations.CloseJumpsBackOnNonzeroCell : Prop :=
  ∀ (s : State) (a : Agent), s.agents[cur s]? = some a →
    ∃ t, exec .close s = .next t ∧ CellsKept s t ∧
      (memRead s a.cp = 0#4 → t = { s with agents := withCur s (epAfter s a a.ep) }) ∧
      (memRead s a.cp ≠ 0#4 → ∀ q, resolve s .bwd .cell = some q →
        t = { s with agents := withCur s (epAfter s a q) }) ∧
      (memRead s a.cp ≠ 0#4 → resolve s .bwd .cell = none → t = afterHalt s a .unmatched)

/-- R139: COPEN advances when the character at CP is not 0; otherwise it goes past the match, or
halts with UNMATCHED. -/
def Obligations.CopenJumpsForwardOnZeroCharacter : Prop :=
  ∀ (s : State) (a : Agent), s.agents[cur s]? = some a →
    ∃ t, exec .copen s = .next t ∧ CellsKept s t ∧
      (readChar s a.cp ≠ 0#8 → t = { s with agents := withCur s (epAfter s a a.ep) }) ∧
      (readChar s a.cp = 0#8 → ∀ q, resolve s .fwd .char = some q →
        t = { s with agents := withCur s (epAfter s a q) }) ∧
      (readChar s a.cp = 0#8 → resolve s .fwd .char = none → t = afterHalt s a .unmatched)

/-- R140: CCLOSE advances when the character at CP is 0; otherwise it goes back past the match, or
halts with UNMATCHED. -/
def Obligations.CcloseJumpsBackOnNonzeroCharacter : Prop :=
  ∀ (s : State) (a : Agent), s.agents[cur s]? = some a →
    ∃ t, exec .cclose s = .next t ∧ CellsKept s t ∧
      (readChar s a.cp = 0#8 → t = { s with agents := withCur s (epAfter s a a.ep) }) ∧
      (readChar s a.cp ≠ 0#8 → ∀ q, resolve s .bwd .char = some q →
        t = { s with agents := withCur s (epAfter s a q) }) ∧
      (readChar s a.cp ≠ 0#8 → resolve s .bwd .char = none → t = afterHalt s a .unmatched)

/-- R132: the resolver answers `q` exactly when `q` is the first of the cells after the start, in the
scan's direction and within one turn of the core, at which the nesting depth is 0. -/
def Obligations.ResolverFindsTheFirstBalancedCell : Prop :=
  ∀ (s : State) (d : Dir) (f : Family) (q : Nat), (curAgent s).ep < s.cfg.coreSize →
    (resolve s d f = some q ↔ IsMatch s d f (curAgent s).ep q)

/-- The spec's own inference (its R135) from R132: while the scan runs the depth is at most N, and
the answer is a core address other than the start. -/
def Obligations.ResolverDepthAndAnswerStayInBounds : Prop :=
  ∀ (s : State) (d : Dir) (f : Family), (curAgent s).ep < s.cfg.coreSize →
    (∀ k < s.cfg.coreSize, depthAt s d f (curAgent s).ep k ≤ s.cfg.coreSize) ∧
    (∀ q, resolve s d f = some q → q < s.cfg.coreSize ∧ q ≠ (curAgent s).ep)

/-- The spec's own inference (its R141) from R132 and R133: when the forward scan from an open
bracket finds `q`, the backward scan from `q` finds the open bracket again. -/
def Obligations.ForwardMatchIsFoundBackAgain : Prop :=
  ∀ (s : State) (f : Family) (q : Nat) (a : Agent), s.agents[cur s]? = some a →
    a.ep < s.cfg.coreSize → memRead s a.ep = openCode f → resolve s .fwd f = some q →
    memRead s q = closeCode f ∧ resolve (setEP s q) .bwd f = some a.ep

/-- R133: the families are matched independently: the answer for a family depends on which cells hold
that family's two codes and on nothing else in the core. -/
def Obligations.ResolverSeesOnlyItsFamily : Prop :=
  ∀ (s : State) (m : Memory) (d : Dir) (f : Family),
    (∀ a, (s.core.get a = openCode f ↔ m.get a = openCode f) ∧
      (s.core.get a = closeCode f ↔ m.get a = closeCode f)) →
    resolve { s with core := m } d f = resolve s d f

/-! ### Every instruction (40_step.md) -/

/-- R96: every instruction ends in a next state, in every state of either mode. -/
def Obligations.NoInstructionFaultsOrIsRefused : Prop :=
  ∀ (i : Instr) (s : State), ∃ t, exec i s = .next t

/-- R99: a step writes no entry of the agent table but the stepping agent's, and reads none but that:
on two tables that agree in the stepping agent's entry, whatever the others hold, the same opcode is
fetched and the same instruction has the same effect on that entry and on every other field. -/
def Obligations.StepTouchesNoOtherAgent : Prop :=
  (∀ (i : Instr) (s t : State), exec i s = .next t →
    t.agents.length = s.agents.length ∧ ∀ j, j ≠ cur s → t.agents[j]? = s.agents[j]?) ∧
  (∀ (i : Instr) (s : State) (a : Agent) (others : List Agent),
    s.agents[cur s]? = some a → others[cur s]? = some a →
    fetch { s with agents := others } = fetch s ∧
    ∃ t u, exec i s = .next t ∧ exec i { s with agents := others } = .next u ∧
      u.agents[cur s]? = t.agents[cur s]? ∧ u = { t with agents := u.agents })

/-- R95, R30, and the spec's own inference from them (its R161): a step that halts its agent records
why and keeps the agent's pointers and everything else; in SINGLE mode the run is HALTED, in ARENA
mode the agent is dead. -/
def Obligations.HaltingStepsKeepEverythingElse : Prop :=
  ∀ (i : Instr) (s t : State) (a b : Agent), exec i s = .next t → s.agents[cur s]? = some a →
    t.agents[cur s]? = some b → a.haltCause = .none → b.haltCause ≠ .none →
    t = afterHalt s a b.haltCause ∧ CellsKept s t ∧ b.ep = a.ep ∧ b.cp = a.cp ∧
    (i = .halt ∧ b.haltCause = .haltOp ∨
      i ∈ [Instr.opn, .close, .copen, .cclose] ∧ b.haltCause = .unmatched)

/-- R52, R54, R213: a step writes at most the two cells of the character at the stepping agent's CP,
and only opcodes 5, 6, 7, 8, 10 and 15 write a cell. -/
def Obligations.StepWritesAtMostTheCharacterAtCP : Prop :=
  ∀ (i : Instr) (s t : State), exec i s = .next t →
    CellsKeptButChar s t (curAgent s).cp ∧
    (i ∉ [Instr.inc, .dec, .cinc, .cdec, .inp, .swap] → CellsKept s t)

/-- R29, R23, R27: no instruction changes a score, a start or a length, and only SWAP changes
Buffer. -/
def Obligations.InstructionsKeepScoresStartsAndLengths : Prop :=
  ∀ (i : Instr) (s t : State), exec i s = .next t →
    t.agents.map (fun a => (a.score, a.start, a.len)) =
      s.agents.map (fun a => (a.score, a.start, a.len)) ∧
    (i ≠ .swap → t.buffer = s.buffer) ∧ (i ≠ .out → t.output = s.output) ∧
    (i ≠ .inp → t.inPos = s.inPos)

/-! ### One transition of the machine (60_exceptions.md) -/

/-- R98, R164, R165, and the fetch of the spec's own inference R91: a SINGLE run within its budget
performs the instruction the cell at EP decodes to, and counts it. -/
def Obligations.SingleTransitionRunsTheFetchedInstruction : Prop :=
  ∀ (s : State) (a : Agent) (i : Instr), s.cfg.mode = .single → 2 ≤ s.cfg.coreSize →
    s.phase = .running → s.runStatus = .running → s.iter < s.cfg.maxIter →
    s.agents[0]? = some a → decode (memRead s a.ep) = i → i.wellFormed = true →
    ∃ t, exec i s = .next t ∧ step s = .next { t with iter := s.iter + 1 }

/-- R98, R183, R184, R186, and the fetch of the spec's own inference R91: an arena gives the living
agent at TURN, the agent (ROUND + TURN) mod K, one step of the instruction the cell at its EP
decodes to, then moves TURN on, or ends the pass. -/
def Obligations.ArenaTransitionRunsTheFetchedInstruction : Prop :=
  ∀ (s : State) (a : Agent) (i : Instr), s.cfg.mode = .arena → s.arenaStatus = .running →
    s.phase = .running → s.agents[(s.round + s.turn) % s.cfg.programs.length]? = some a →
    a.alive = true →
    (s.turn = 0 → s.cycle < s.cfg.cycleLimit ∧ 1 < s.agents.countP (fun b => b.alive)) →
    decode (memRead s a.ep) = i → i.wellFormed = true →
    cur s = (s.round + s.turn) % s.cfg.programs.length ∧
    ∃ t, exec i s = .next t ∧
      (s.turn + 1 < s.cfg.programs.length → step s = .next { t with turn := s.turn + 1 }) ∧
      (s.cfg.programs.length ≤ s.turn + 1 →
        step s = .next { t with turn := 0, cycle := s.cycle + 1 })

/-- R184: a dead agent is skipped: its turn passes and nothing else changes. -/
def Obligations.DeadAgentsAreSkipped : Prop :=
  ∀ (s : State) (a : Agent), s.cfg.mode = .arena → s.arenaStatus = .running →
    s.phase = .running → s.agents[cur s]? = some a → a.alive = false →
    (s.turn = 0 → s.cycle < s.cfg.cycleLimit ∧ 1 < s.agents.countP (fun b => b.alive)) →
    (s.turn + 1 < s.cfg.programs.length → step s = .next { s with turn := s.turn + 1 }) ∧
    (s.cfg.programs.length ≤ s.turn + 1 →
      step s = .next { s with turn := 0, cycle := s.cycle + 1 })

/-- R153, R164: a SINGLE run whose budget is exhausted is STOPPED and otherwise left as it is. -/
def Obligations.ExhaustedBudgetStopsTheRun : Prop :=
  ∀ s : State, s.cfg.mode = .single → 2 ≤ s.cfg.coreSize → s.phase = .running →
    s.runStatus = .running → s.cfg.maxIter ≤ s.iter →
    step s = .next { s with runStatus := .stopped }

/-- R90, R162, R190 (that the model's transition is then the fault `runOver` is its own choice,
log 7): a run that has ended has no step, in either mode. -/
def Obligations.EndedRunsHaveNoStep : Prop :=
  ∀ s : State, (s.cfg.mode = .single → 2 ≤ s.cfg.coreSize) → Finished s →
    step s = .fault .runOver

/-- R37: no transition writes the configuration. -/
def Obligations.ConfigurationIsNeverWritten : Prop :=
  ∀ s t : State, step s = .next t → t.cfg = s.cfg

/-- The invariant holds at reset. -/
def Obligations.InvariantHoldsAtReset : Prop := State.Inv State.reset

/-- R24, R25, R28, R30 to R36, R42, R188: every transition keeps the invariant: legal pointers, a
canonical core inside 0 … N-1, counters within their limits, statuses and halt causes that agree. -/
def Obligations.EveryTransitionKeepsTheInvariant : Prop :=
  ∀ s t : State, State.Inv s → step s = .next t → State.Inv t

/-! ### Loading and the SINGLE run (70_reset_and_hazards.md) -/

/-- R201, and the spec's own inference from it (its R202): a load returns the cursor (o + n) mod N
and the number n of recognised symbols, leaves at each address it covers the last symbol written
there, and changes no other cell. -/
def Obligations.LoaderWritesTheSymbolsAndNothingElse : Prop :=
  ∀ (n : Nat) (p : Program) (m : Memory) (o : Nat), o < n →
    (load n p m o).len = (recognise p).length ∧
    (load n p m o).cursor = (o + (recognise p).length) % n ∧
    HoldsProgram (load n p m o).core.get n o (recognise p) ∧
    ∀ a, OutsideLoad n o (recognise p).length a → (load n p m o).core.get a = m.get a

/-- R203, R43: the SINGLE run start: the program in an otherwise zero core, EP 0, CP = L mod N,
Buffer 0, ITER 0, RUNNING, the channels at their start. -/
def Obligations.SingleRunStartLoadsTheProgram : Prop :=
  ∀ (s : State) (p : Program), s.cfg.mode = .single → 2 ≤ s.cfg.coreSize → s.phase = .loading →
    s.cfg.programs = [p] →
    ∃ t a, step s = .next t ∧ t.agents = [a] ∧
      a.ep = 0 ∧ a.cp = programLength p % s.cfg.coreSize ∧ a.len = programLength p ∧ a.start = 0 ∧
      a.haltCause = .none ∧ t.buffer = 0#8 ∧ t.iter = 0 ∧ t.runStatus = .running ∧
      t.output = [] ∧ t.inPos = 0 ∧ t.phase = .running ∧
      HoldsProgram t.core.get s.cfg.coreSize 0 (recognise p) ∧
      (∀ x, OutsideLoad s.cfg.coreSize 0 (programLength p) x → t.core.get x = 0#4)

/-- R203: a run of a program with no recognised symbol starts with both pointers 0, and its first
step fetches the 0 at address 0 and halts. -/
def Obligations.EmptyProgramHaltsInItsFirstStep : Prop :=
  ∀ (c : RunConfig) (p : Program), c.mode = .single → 2 ≤ c.coreSize → 0 < c.maxIter →
    c.programs = [p] → programLength p = 0 →
    ∃ t u a b, step (hostConfigure c) = .next t ∧ t.agents = [a] ∧ a.cp = 0 ∧ a.ep = 0 ∧
      memRead t 0 = 0#4 ∧ step t = .next u ∧ u.runStatus = .halted ∧ u.iter = 1 ∧
      u.agents = [b] ∧ b.ep = 0 ∧ b.cp = 0 ∧ b.haltCause = .haltOp

/-- Log 1, log 2 (the model's choice of configuration): the reset state is the SINGLE run start
(R203) of the empty program, every cell reads 0, and agent 0 is the only agent. -/
def Obligations.ResetIsTheRunStartOfTheEmptyProgram : Prop :=
  step (hostConfigure RunConfig.default) = .next State.reset ∧
  (∀ x, memRead State.reset x = 0#4) ∧ State.reset.agents.length = 1 ∧
  (curAgent State.reset).cp = 0 ∧ (curAgent State.reset).ep = 0 ∧
  (curAgent State.reset).haltCause = .none ∧ State.reset.buffer = 0#8 ∧
  State.reset.iter = 0 ∧ State.reset.runStatus = .running ∧ State.reset.output = []

/-- R164, R165, and the spec's own inference (its R214): a SINGLE run ends, and ITER counts the steps
it performs: within MAX_ITER steps and one
transition more it is HALTED or STOPPED, with ITER at most MAX_ITER. -/
def Obligations.SingleRunsEndWithinTheBudget : Prop :=
  ∀ s : State, s.cfg.mode = .single → 2 ≤ s.cfg.coreSize → s.phase = .running →
    s.runStatus = .running → s.iter ≤ s.cfg.maxIter →
    ∃ k t, k ≤ s.cfg.maxIter - s.iter + 1 ∧ RunsTo k s t ∧ t.runStatus ≠ .running ∧
      t.iter ≤ s.cfg.maxIter ∧ t.iter = s.iter + agentSteps k s

/-! ### The arena (60_exceptions.md section 6) -/

/-- R175, R176, R190: an arena starts with K entries of score 0, not alive and without a cause,
ROUND, CYCLE and TURN 0; it is CONFIG_ERROR with the first failing test's error, in the order core
size, agent count, program length, and RUNNING otherwise. On a failed check no cell is written
(R176); that the core keeps what it held also where the arena is RUNNING, when R43 leaves it
unspecified, is the model's own choice (log 10). -/
def Obligations.ArenaStartConstructsAndChecks : Prop :=
  ∀ s : State, s.cfg.mode = .arena → s.arenaStatus = .idle →
    ∃ t, step s = .next t ∧ t.core = s.core ∧ t.round = 0 ∧ t.cycle = 0 ∧ t.turn = 0 ∧
      t.agents.length = s.cfg.programs.length ∧
      (∀ a ∈ t.agents, a.score = 0 ∧ a.alive = false ∧ a.haltCause = .none) ∧
      (s.cfg.coreSize < 2 → t.arenaStatus = .configError ∧ t.configError = some .badCoreSize) ∧
      (2 ≤ s.cfg.coreSize → s.cfg.programs.length < 2 →
        t.arenaStatus = .configError ∧ t.configError = some .tooFewAgents) ∧
      (2 ≤ s.cfg.coreSize → 2 ≤ s.cfg.programs.length →
        (∃ p ∈ s.cfg.programs, s.cfg.maxLen < programLength p) →
        t.arenaStatus = .configError ∧ t.configError = some .programTooLong) ∧
      (2 ≤ s.cfg.coreSize → 2 ≤ s.cfg.programs.length →
        (∀ p ∈ s.cfg.programs, programLength p ≤ s.cfg.maxLen) →
        t.arenaStatus = .running ∧ t.configError = none ∧ t.phase = .loading)

/-- R179: the exclusion window is the addresses from start - (S + M) to start + (S + M), both ends
included, mod N; it contains the start; when 2(S + M) + 1 ≥ N it is the whole core. -/
def Obligations.ExclusionWindowWrapsBothEndsIncluded : Prop :=
  ∀ (c : RunConfig) (start : Nat), 0 < c.coreSize →
    (∀ a : Nat, a ∈ exclusion c start ↔
      ∃ k : Int, -((c.separation : Int) + c.maxLen) ≤ k ∧ k ≤ (c.maxLen : Int) + c.separation ∧
        (a : Int) = (start + k) % c.coreSize) ∧
    (start < c.coreSize → start ∈ exclusion c start) ∧
    (c.coreSize ≤ 2 * (c.separation + c.maxLen) + 1 →
      ∀ a < c.coreSize, a ∈ exclusion c start)

/-- R172: the random channel answers a member of the set it is given, any member can be the answer,
and only the empty set gives none. -/
def Obligations.DrawMayAnswerAnyMember : Prop :=
  ∀ f : List Nat,
    (∀ x, f ≠ [] → ∃ a ∈ f, draw f x = some a) ∧ (∀ a ∈ f, ∃ x, draw f x = some a) ∧
    (∀ x, draw [] x = none)

/-- R172, R178, R180: every placement that the rules allow happens, in every round, for some answers
of the random channel: agent 0 at the anchor 0 and each later start outside all earlier windows. The
channel has answered `given` before; what it answers next, `ds`, gives the starts. -/
def Obligations.EveryAllowedPlacementCanHappen : Prop :=
  ∀ (s : State) (starts given : List Nat), s.cfg.mode = .arena → 0 < s.cfg.programs.length →
    s.agents.length = s.cfg.programs.length → starts.length = s.cfg.programs.length →
    given.length = s.drawPos → starts[0]? = some 0 → (∀ a ∈ starts, a < s.cfg.coreSize) →
    starts.Pairwise (fun x y => y ∉ exclusion s.cfg x) →
    ∃ ds t, place { s with cfg := { s.cfg with draws := given ++ ds } } = (true, t) ∧
      t.agents.map (fun a => a.start) = starts

/-- The spec's own inference (its R193) from R178, R179, R180 and R182: after a round's placement
every start lies outside the window of every earlier one, so that the circular distance between two
starts is at least M + S + 1 in both directions, and between the end of one program and the start of
another lie at least S + 1 cells. -/
def Obligations.PlacementSeparatesThePrograms : Prop :=
  ∀ s t : State, s.cfg.mode = .arena → s.arenaStatus = .running → s.phase = .loading →
    s.round < s.cfg.rounds → 2 ≤ s.cfg.coreSize → s.agents.length = s.cfg.programs.length →
    0 < s.cfg.programs.length → (∀ p ∈ s.cfg.programs, programLength p ≤ s.cfg.maxLen) →
    step s = .next t → t.arenaStatus = .running →
    (∀ a, t.agents[0]? = some a → a.start = 0) ∧
    ∀ (i j : Nat) (a b : Agent), i < j → t.agents[i]? = some a → t.agents[j]? = some b →
      b.start ∉ exclusion s.cfg a.start ∧
      s.cfg.maxLen + s.cfg.separation + 1 ≤
        (b.start + s.cfg.coreSize - a.start) % s.cfg.coreSize ∧
      s.cfg.maxLen + s.cfg.separation + 1 ≤
        (a.start + s.cfg.coreSize - b.start) % s.cfg.coreSize ∧
      a.len + s.cfg.separation + 1 ≤ (b.start + s.cfg.coreSize - a.start) % s.cfg.coreSize ∧
      b.len + s.cfg.separation + 1 ≤ (a.start + s.cfg.coreSize - b.start) % s.cfg.coreSize

/-- R177, R182, R43: a round start leaves every agent alive at its start with CP past its program,
scores kept, CYCLE and TURN 0, each program whole in the core at its start and every other cell 0. -/
def Obligations.RoundStartLoadsEveryProgramWhole : Prop :=
  ∀ s t : State, s.cfg.mode = .arena → s.arenaStatus = .running → s.phase = .loading →
    s.round < s.cfg.rounds → 2 ≤ s.cfg.coreSize → s.agents.length = s.cfg.programs.length →
    2 ≤ s.cfg.programs.length → (∀ p ∈ s.cfg.programs, programLength p ≤ s.cfg.maxLen) →
    step s = .next t → t.arenaStatus = .running →
    t.phase = .running ∧ t.cycle = 0 ∧ t.turn = 0 ∧ t.round = s.round ∧
    t.agents.map (fun a => a.score) = s.agents.map (fun a => a.score) ∧
    (∀ (i : Nat) (p : Program) (a : Agent), s.cfg.programs[i]? = some p → t.agents[i]? = some a →
      a.alive = true ∧ a.haltCause = .none ∧ a.len = programLength p ∧ a.ep = a.start ∧
      a.cp = (a.start + a.len) % s.cfg.coreSize ∧
      ∀ (j : Nat) (x : Instr), (recognise p)[j]? = some x →
        t.core.get ((a.start + j) % s.cfg.coreSize) = opcode x) ∧
    (∀ x, (∀ a ∈ t.agents, OutsideLoad s.cfg.coreSize a.start a.len x) → t.core.get x = 0#4)

/-- R181, R156, R179: a round start either runs or ends the arena with PLACEMENT_IMPOSSIBLE, the
scores kept, no agent alive, no cell written and no result; it always ends so when the anchor's
window is the whole core. -/
def Obligations.ImpossiblePlacementEndsTheArena : Prop :=
  ∀ s : State, s.cfg.mode = .arena → s.arenaStatus = .running → s.phase = .loading →
    s.round < s.cfg.rounds → 2 ≤ s.cfg.programs.length →
    ∃ t, step s = .next t ∧
      (t.arenaStatus = .running ∨
        t.arenaStatus = .configError ∧ t.configError = some .placementImpossible ∧
        t.agents.map (fun a => a.score) = s.agents.map (fun a => a.score) ∧
        (∀ a ∈ t.agents, a.alive = false) ∧ t.core = [] ∧ scoreVector t = none) ∧
      (s.cfg.coreSize ≤ 2 * (s.cfg.separation + s.cfg.maxLen) + 1 →
        t.arenaStatus = .configError)

/-- R184, R186, R99: a pass is K transitions that offer the turns of the round's order one after the
other; no agent's entry changes before its own turn; the pass ends with TURN 0 and CYCLE one more. -/
def Obligations.PassOffersEachAgentOneTurnInOrder : Prop :=
  ∀ s : State, s.cfg.mode = .arena → s.arenaStatus = .running → s.phase = .running →
    s.turn = 0 → s.cycle < s.cfg.cycleLimit → 1 < s.agents.countP (fun b => b.alive) →
    s.agents.length = s.cfg.programs.length →
    (∀ j < s.cfg.programs.length, ∃ u, RunsTo j s u ∧ u.turn = j ∧
      cur u = (s.round + j) % s.cfg.programs.length ∧
      ∀ i, j ≤ i → i < s.cfg.programs.length →
        u.agents[(s.round + i) % s.cfg.programs.length]? =
          s.agents[(s.round + i) % s.cfg.programs.length]?) ∧
    ∃ t, RunsTo s.cfg.programs.length s t ∧ t.turn = 0 ∧ t.cycle = s.cycle + 1 ∧
      t.round = s.round ∧ t.arenaStatus = .running ∧ t.phase = .running

/-- R185, R162: while passes run, a dead agent's entry stays as it is. -/
def Obligations.DeadAgentsStayAsTheyDied : Prop :=
  ∀ (s t : State) (j : Nat) (a : Agent), s.cfg.mode = .arena → s.arenaStatus = .running →
    s.phase = .running → s.agents[j]? = some a → a.alive = false → step s = .next t →
    t.agents[j]? = some a

/-- R186, R187, R188, R189: when no pass is wanted the round ends: each agent alive is awarded
(K² - 1) div survivors, and the next round is loaded, or the arena is DONE with the score vector as
its result. -/
def Obligations.RoundEndAwardsTheSurvivors : Prop :=
  ∀ s : State, s.cfg.mode = .arena → s.arenaStatus = .running → s.phase = .running → s.turn = 0 →
    (s.cfg.cycleLimit ≤ s.cycle ∨ s.agents.countP (fun b => b.alive) ≤ 1) →
    ∃ t, step s = .next t ∧ CellsKept s t ∧
      t.agents = s.agents.map (fun a => { a with score := a.score +
        (if a.alive = true then (s.cfg.programs.length * s.cfg.programs.length - 1) /
          s.agents.countP (fun b => b.alive) else 0) }) ∧
      (s.round + 1 < s.cfg.rounds →
        t.arenaStatus = .running ∧ t.phase = .loading ∧ t.round = s.round + 1 ∧
        scoreVector t = none) ∧
      (s.cfg.rounds ≤ s.round + 1 →
        t.arenaStatus = .done ∧ t.round = s.cfg.rounds ∧
        scoreVector t = some (t.agents.map (fun a => a.score)))

/-- R191, and the spec's own inference (its R214): an arena run ends: within R(CK + 2) + 2 transitions,
at most R·C·K of which perform a step of an agent, it is DONE or CONFIG_ERROR. -/
def Obligations.ArenaRunsEnd : Prop :=
  ∀ s : State, s.cfg.mode = .arena → s.arenaStatus = .idle →
    ∃ k t, k ≤ s.cfg.rounds * (s.cfg.cycleLimit * s.cfg.programs.length + 2) + 2 ∧
      agentSteps k s ≤ s.cfg.rounds * s.cfg.cycleLimit * s.cfg.programs.length ∧
      RunsTo k s t ∧ (t.arenaStatus = .done ∨ t.arenaStatus = .configError)
end

