-- ==== Sys2Proof/Laws/Encoding.lean ====
section
/-! SUPPORT. What the decoder, the encoder and the symbol tables do on one instruction, one cell and
one character (spec/30_encoding.md). -/

namespace Sys2Proof

/-- Decoding an instruction's opcode gives the instruction back (R72). -/
@[simp] theorem decode_opcode (i : Instr) : decode (opcode i) = i := by cases i <;> rfl

/-- The opcode of what a cell decodes to is the cell (R72, R73). -/
@[simp] theorem opcode_decode (c : Nibble) : opcode (decode c) = c := by
  revert c; decide

/-- A cell sequence with a first cell decodes to that cell's instruction (R70). -/
@[simp] theorem decodeCells_cons (c : Nibble) (rest : List Nibble) :
    decodeCells (c :: rest) = .ok (decode c, rest) := rfl

/-- The symbol of each instruction is recognised as that instruction (R75). -/
@[simp] theorem ofSymbol_symbol (i : Instr) : ofSymbol (symbol i) = some i := by cases i <;> decide

/-- A recognised character is the symbol of its instruction (R75). -/
theorem symbol_of_ofSymbol {ch : Char} {i : Instr} (h : ofSymbol ch = some i) : symbol i = ch := by
  simpa using List.find?_some h

/-- A character that is not a symbol is skipped (R76). -/
theorem recognise_cons_none {ch : Char} {p : Program} (h : ofSymbol ch = none) :
    recognise (ch :: p) = recognise p := by
  simp [recognise, h]

/-- A symbol adds one instruction in front (R75). -/
theorem recognise_cons_some {ch : Char} {p : Program} {i : Instr} (h : ofSymbol ch = some i) :
    recognise (ch :: p) = i :: recognise p := by
  simp [recognise, h]

end Sys2Proof
end

