-- ==== Sys2Proof/Laws/Memory.lean ====
section
/-! SUPPORT. The core as a list of cells: reads after writes, in any core, and the canonical form
(log 9). -/

namespace Sys2Proof.Machine

/-! ### Reads -/

@[simp] theorem Memory.get_nil (a : Nat) : Memory.get [] a = 0#4 := rfl

/-- An address no entry names reads 0. -/
theorem Memory.get_eq_zero {m : Memory} {a : Nat} (h : ∀ c ∈ m, c.1 ≠ a) : Memory.get m a = 0#4 := by
  induction m with
  | nil => rfl
  | cons c r ih =>
    obtain ⟨b, v⟩ := c
    have hb : b ≠ a := h (b, v) (by simp)
    simp only [Memory.get, if_neg hb.symm]
    exact ih (fun c hc => h c (by simp [hc]))

/-- An erased address reads 0, every other address as before. -/
theorem Memory.get_erase (m : Memory) (a b : Nat) :
    Memory.get (m.erase a) b = if b = a then 0#4 else Memory.get m b := by
  induction m with
  | nil => simp [Memory.erase]
  | cons c r ih =>
    obtain ⟨d, v⟩ := c
    unfold Memory.erase at ih ⊢
    by_cases hd : d = a <;> by_cases hb : b = a <;> by_cases hbd : b = d <;>
      simp_all [Memory.get]

/-- An inserted address that was not listed reads its value, every other address as before. -/
theorem Memory.get_insert {m : Memory} {a : Nat} (h : ∀ c ∈ m, c.1 ≠ a) (v : Nibble) (b : Nat) :
    Memory.get (m.insert a v) b = if b = a then v else Memory.get m b := by
  induction m with
  | nil => simp [Memory.insert, Memory.get]
  | cons c r ih =>
    obtain ⟨d, w⟩ := c
    have hd : d ≠ a := h (d, w) (by simp)
    have ih := ih (fun c hc => h c (by simp [hc]))
    simp only [Memory.insert]
    split
    · simp [Memory.get]
    · by_cases hb : b = a
      · subst hb; simp [Memory.get, hd.symm, ih]
      · simp [Memory.get, ih, hb]

/-- No entry of an erased core names the address. -/
theorem Memory.ne_of_mem_erase {m : Memory} {a : Nat} : ∀ c ∈ m.erase a, c.1 ≠ a := by
  intro c hc
  simpa [Memory.erase] using (List.mem_filter.mp hc).2

/-- A read after a write: the value written at its address, every other cell as before (R52). -/
@[simp] theorem Memory.get_set (m : Memory) (a : Nat) (v : Nibble) (b : Nat) :
    Memory.get (m.set a v) b = if b = a then v else Memory.get m b := by
  unfold Memory.set
  split
  next hv => rw [Memory.get_erase, hv]
  next hv =>
    rw [Memory.get_insert Memory.ne_of_mem_erase, Memory.get_erase]
    split <;> simp_all

/-! ### The canonical form -/

/-- The entries of a core after an insertion. -/
theorem Memory.mem_insert {m : Memory} {a : Nat} {v : Nibble} {c : Nat × Nibble} :
    c ∈ m.insert a v ↔ c = (a, v) ∨ c ∈ m := by
  induction m with
  | nil => simp [Memory.insert]
  | cons d r ih =>
    obtain ⟨b, w⟩ := d
    simp only [Memory.insert]
    split
    · simp
    · simp only [List.mem_cons, ih]; tauto

/-- Every entry of a written core was there or is the one written, which is not 0. -/
theorem Memory.mem_set {m : Memory} {a : Nat} {v : Nibble} {c : Nat × Nibble}
    (h : c ∈ m.set a v) : c ∈ m ∨ c = (a, v) ∧ v ≠ 0#4 := by
  unfold Memory.set at h
  split at h
  · exact .inl (List.mem_filter.mp h).1
  next hv =>
    rcases Memory.mem_insert.mp h with rfl | h
    · exact .inr ⟨rfl, hv⟩
    · exact .inl (List.mem_filter.mp h).1

/-- An insertion of an address that was not listed keeps a core sorted. -/
theorem Memory.insert_sorted {m : Memory} {a : Nat} (v : Nibble) (ha : ∀ c ∈ m, c.1 ≠ a)
    (h : m.Pairwise (fun x y => x.1 < y.1)) :
    (m.insert a v).Pairwise (fun x y => x.1 < y.1) := by
  induction m with
  | nil => simp [Memory.insert]
  | cons d r ih =>
    obtain ⟨b, w⟩ := d
    have hr := List.pairwise_cons.mp h
    have hb : b ≠ a := ha (b, w) (by simp)
    simp only [Memory.insert]
    split
    next hab =>
      refine List.pairwise_cons.mpr ⟨fun c hc => ?_, h⟩
      rcases List.mem_cons.mp hc with rfl | hc
      · exact hab
      · exact Nat.lt_trans hab (hr.1 c hc)
    next hab =>
      refine List.pairwise_cons.mpr
        ⟨fun c hc => ?_, ih (fun c hc => ha c (by simp [hc])) hr.2⟩
      rcases Memory.mem_insert.mp hc with rfl | hc
      · show b < a; omega
      · exact hr.1 c hc

/-- A sorted core stays sorted under a write. -/
theorem Memory.set_sorted {m : Memory} (a : Nat) (v : Nibble)
    (h : m.Pairwise (fun x y => x.1 < y.1)) : (m.set a v).Pairwise (fun x y => x.1 < y.1) := by
  unfold Memory.set
  have hf : (m.erase a).Pairwise (fun x y => x.1 < y.1) := h.filter _
  split
  · exact hf
  · exact Memory.insert_sorted v Memory.ne_of_mem_erase hf

/-- Every operation that writes the core keeps its canonical form: `Memory.set` is the only one. -/
theorem Memory.set_wf {m : Memory} (a : Nat) (v : Nibble) (h : Memory.wf m) :
    Memory.wf (m.set a v) := by
  refine ⟨Memory.set_sorted a v h.1, fun c hc => ?_⟩
  rcases Memory.mem_set hc with hc | ⟨rfl, hv⟩
  · exact h.2 c hc
  · exact hv

/-- The core after a reset event is in canonical form. -/
theorem Memory.nil_wf : Memory.wf [] := ⟨List.Pairwise.nil, by simp⟩

/-- The core of the reset state is in canonical form. -/
theorem State.reset_core_wf : Memory.wf State.reset.core := Memory.nil_wf

/-- A write keeps the listed addresses below a bound. -/
theorem Memory.set_lt {m : Memory} {n a : Nat} (v : Nibble) (ha : a < n)
    (h : ∀ c ∈ m, c.1 < n) : ∀ c ∈ m.set a v, c.1 < n := by
  intro c hc
  rcases Memory.mem_set hc with hc | ⟨rfl, _⟩
  · exact h c hc
  · exact ha

/-- An entry of a sorted core is what its address reads. -/
theorem Memory.get_of_mem {m : Memory} (h : m.Pairwise (fun x y => x.1 < y.1)) {c : Nat × Nibble}
    (hc : c ∈ m) : Memory.get m c.1 = c.2 := by
  induction m with
  | nil => simp at hc
  | cons d r ih =>
    obtain ⟨b, w⟩ := d
    have hr := List.pairwise_cons.mp h
    rcases List.mem_cons.mp hc with rfl | hc
    · simp [Memory.get]
    · have : b < c.1 := hr.1 c hc
      simp only [Memory.get, if_neg (Nat.ne_of_gt this)]
      exact ih hr.2 hc

end Sys2Proof.Machine
end

