-- ==== Sys2Proof/Laws/State.lean ====
section
/-! SUPPORT. The fields each update of the state leaves as they were, and the values of those it
writes. -/

namespace Sys2Proof.Machine

/-! ### memWrite -/

@[simp] theorem memWrite_cfg (s : State) (x : Int) (v : Nibble) : (memWrite s x v).cfg = s.cfg := rfl
@[simp] theorem memWrite_core (s : State) (x : Int) (v : Nibble) :
    (memWrite s x v).core = s.core.set (wrap s.cfg.coreSize x) v := rfl
@[simp] theorem memWrite_agents (s : State) (x : Int) (v : Nibble) : (memWrite s x v).agents = s.agents := rfl
@[simp] theorem memWrite_buffer (s : State) (x : Int) (v : Nibble) : (memWrite s x v).buffer = s.buffer := rfl
@[simp] theorem memWrite_runStatus (s : State) (x : Int) (v : Nibble) : (memWrite s x v).runStatus = s.runStatus := rfl
@[simp] theorem memWrite_iter (s : State) (x : Int) (v : Nibble) : (memWrite s x v).iter = s.iter := rfl
@[simp] theorem memWrite_inPos (s : State) (x : Int) (v : Nibble) : (memWrite s x v).inPos = s.inPos := rfl
@[simp] theorem memWrite_output (s : State) (x : Int) (v : Nibble) : (memWrite s x v).output = s.output := rfl
@[simp] theorem memWrite_arenaStatus (s : State) (x : Int) (v : Nibble) : (memWrite s x v).arenaStatus = s.arenaStatus := rfl
@[simp] theorem memWrite_configError (s : State) (x : Int) (v : Nibble) : (memWrite s x v).configError = s.configError := rfl
@[simp] theorem memWrite_round (s : State) (x : Int) (v : Nibble) : (memWrite s x v).round = s.round := rfl
@[simp] theorem memWrite_cycle (s : State) (x : Int) (v : Nibble) : (memWrite s x v).cycle = s.cycle := rfl
@[simp] theorem memWrite_turn (s : State) (x : Int) (v : Nibble) : (memWrite s x v).turn = s.turn := rfl
@[simp] theorem memWrite_drawPos (s : State) (x : Int) (v : Nibble) : (memWrite s x v).drawPos = s.drawPos := rfl
@[simp] theorem memWrite_phase (s : State) (x : Int) (v : Nibble) : (memWrite s x v).phase = s.phase := rfl

/-! ### writeChar -/

@[simp] theorem writeChar_cfg (s : State) (x : Int) (b : Byte) : (writeChar s x b).cfg = s.cfg := rfl
@[simp] theorem writeChar_agents (s : State) (x : Int) (b : Byte) : (writeChar s x b).agents = s.agents := rfl
@[simp] theorem writeChar_buffer (s : State) (x : Int) (b : Byte) : (writeChar s x b).buffer = s.buffer := rfl
@[simp] theorem writeChar_runStatus (s : State) (x : Int) (b : Byte) : (writeChar s x b).runStatus = s.runStatus := rfl
@[simp] theorem writeChar_iter (s : State) (x : Int) (b : Byte) : (writeChar s x b).iter = s.iter := rfl
@[simp] theorem writeChar_inPos (s : State) (x : Int) (b : Byte) : (writeChar s x b).inPos = s.inPos := rfl
@[simp] theorem writeChar_output (s : State) (x : Int) (b : Byte) : (writeChar s x b).output = s.output := rfl
@[simp] theorem writeChar_arenaStatus (s : State) (x : Int) (b : Byte) : (writeChar s x b).arenaStatus = s.arenaStatus := rfl
@[simp] theorem writeChar_configError (s : State) (x : Int) (b : Byte) : (writeChar s x b).configError = s.configError := rfl
@[simp] theorem writeChar_round (s : State) (x : Int) (b : Byte) : (writeChar s x b).round = s.round := rfl
@[simp] theorem writeChar_cycle (s : State) (x : Int) (b : Byte) : (writeChar s x b).cycle = s.cycle := rfl
@[simp] theorem writeChar_turn (s : State) (x : Int) (b : Byte) : (writeChar s x b).turn = s.turn := rfl
@[simp] theorem writeChar_drawPos (s : State) (x : Int) (b : Byte) : (writeChar s x b).drawPos = s.drawPos := rfl
@[simp] theorem writeChar_phase (s : State) (x : Int) (b : Byte) : (writeChar s x b).phase = s.phase := rfl

/-! ### updCur -/

@[simp] theorem updCur_cfg (s : State) (f : Agent → Agent) : (updCur s f).cfg = s.cfg := rfl
@[simp] theorem updCur_core (s : State) (f : Agent → Agent) : (updCur s f).core = s.core := rfl
@[simp] theorem updCur_agents (s : State) (f : Agent → Agent) :
    (updCur s f).agents = s.agents.modify (cur s) f := rfl
@[simp] theorem updCur_buffer (s : State) (f : Agent → Agent) : (updCur s f).buffer = s.buffer := rfl
@[simp] theorem updCur_runStatus (s : State) (f : Agent → Agent) : (updCur s f).runStatus = s.runStatus := rfl
@[simp] theorem updCur_iter (s : State) (f : Agent → Agent) : (updCur s f).iter = s.iter := rfl
@[simp] theorem updCur_inPos (s : State) (f : Agent → Agent) : (updCur s f).inPos = s.inPos := rfl
@[simp] theorem updCur_output (s : State) (f : Agent → Agent) : (updCur s f).output = s.output := rfl
@[simp] theorem updCur_arenaStatus (s : State) (f : Agent → Agent) : (updCur s f).arenaStatus = s.arenaStatus := rfl
@[simp] theorem updCur_configError (s : State) (f : Agent → Agent) : (updCur s f).configError = s.configError := rfl
@[simp] theorem updCur_round (s : State) (f : Agent → Agent) : (updCur s f).round = s.round := rfl
@[simp] theorem updCur_cycle (s : State) (f : Agent → Agent) : (updCur s f).cycle = s.cycle := rfl
@[simp] theorem updCur_turn (s : State) (f : Agent → Agent) : (updCur s f).turn = s.turn := rfl
@[simp] theorem updCur_drawPos (s : State) (f : Agent → Agent) : (updCur s f).drawPos = s.drawPos := rfl
@[simp] theorem updCur_phase (s : State) (f : Agent → Agent) : (updCur s f).phase = s.phase := rfl

/-! ### setCP -/

@[simp] theorem setCP_cfg (s : State) (x : Int) : (setCP s x).cfg = s.cfg := rfl
@[simp] theorem setCP_core (s : State) (x : Int) : (setCP s x).core = s.core := rfl
@[simp] theorem setCP_buffer (s : State) (x : Int) : (setCP s x).buffer = s.buffer := rfl
@[simp] theorem setCP_runStatus (s : State) (x : Int) : (setCP s x).runStatus = s.runStatus := rfl
@[simp] theorem setCP_iter (s : State) (x : Int) : (setCP s x).iter = s.iter := rfl
@[simp] theorem setCP_inPos (s : State) (x : Int) : (setCP s x).inPos = s.inPos := rfl
@[simp] theorem setCP_output (s : State) (x : Int) : (setCP s x).output = s.output := rfl
@[simp] theorem setCP_arenaStatus (s : State) (x : Int) : (setCP s x).arenaStatus = s.arenaStatus := rfl
@[simp] theorem setCP_configError (s : State) (x : Int) : (setCP s x).configError = s.configError := rfl
@[simp] theorem setCP_round (s : State) (x : Int) : (setCP s x).round = s.round := rfl
@[simp] theorem setCP_cycle (s : State) (x : Int) : (setCP s x).cycle = s.cycle := rfl
@[simp] theorem setCP_turn (s : State) (x : Int) : (setCP s x).turn = s.turn := rfl
@[simp] theorem setCP_drawPos (s : State) (x : Int) : (setCP s x).drawPos = s.drawPos := rfl
@[simp] theorem setCP_phase (s : State) (x : Int) : (setCP s x).phase = s.phase := rfl

/-! ### setEP -/

@[simp] theorem setEP_cfg (s : State) (x : Int) : (setEP s x).cfg = s.cfg := rfl
@[simp] theorem setEP_core (s : State) (x : Int) : (setEP s x).core = s.core := rfl
@[simp] theorem setEP_buffer (s : State) (x : Int) : (setEP s x).buffer = s.buffer := rfl
@[simp] theorem setEP_runStatus (s : State) (x : Int) : (setEP s x).runStatus = s.runStatus := rfl
@[simp] theorem setEP_iter (s : State) (x : Int) : (setEP s x).iter = s.iter := rfl
@[simp] theorem setEP_inPos (s : State) (x : Int) : (setEP s x).inPos = s.inPos := rfl
@[simp] theorem setEP_output (s : State) (x : Int) : (setEP s x).output = s.output := rfl
@[simp] theorem setEP_arenaStatus (s : State) (x : Int) : (setEP s x).arenaStatus = s.arenaStatus := rfl
@[simp] theorem setEP_configError (s : State) (x : Int) : (setEP s x).configError = s.configError := rfl
@[simp] theorem setEP_round (s : State) (x : Int) : (setEP s x).round = s.round := rfl
@[simp] theorem setEP_cycle (s : State) (x : Int) : (setEP s x).cycle = s.cycle := rfl
@[simp] theorem setEP_turn (s : State) (x : Int) : (setEP s x).turn = s.turn := rfl
@[simp] theorem setEP_drawPos (s : State) (x : Int) : (setEP s x).drawPos = s.drawPos := rfl
@[simp] theorem setEP_phase (s : State) (x : Int) : (setEP s x).phase = s.phase := rfl

/-! ### advanceEP -/

@[simp] theorem advanceEP_cfg (s : State) : (advanceEP s).cfg = s.cfg := rfl
@[simp] theorem advanceEP_core (s : State) : (advanceEP s).core = s.core := rfl
@[simp] theorem advanceEP_buffer (s : State) : (advanceEP s).buffer = s.buffer := rfl
@[simp] theorem advanceEP_runStatus (s : State) : (advanceEP s).runStatus = s.runStatus := rfl
@[simp] theorem advanceEP_iter (s : State) : (advanceEP s).iter = s.iter := rfl
@[simp] theorem advanceEP_inPos (s : State) : (advanceEP s).inPos = s.inPos := rfl
@[simp] theorem advanceEP_output (s : State) : (advanceEP s).output = s.output := rfl
@[simp] theorem advanceEP_arenaStatus (s : State) : (advanceEP s).arenaStatus = s.arenaStatus := rfl
@[simp] theorem advanceEP_configError (s : State) : (advanceEP s).configError = s.configError := rfl
@[simp] theorem advanceEP_round (s : State) : (advanceEP s).round = s.round := rfl
@[simp] theorem advanceEP_cycle (s : State) : (advanceEP s).cycle = s.cycle := rfl
@[simp] theorem advanceEP_turn (s : State) : (advanceEP s).turn = s.turn := rfl
@[simp] theorem advanceEP_drawPos (s : State) : (advanceEP s).drawPos = s.drawPos := rfl
@[simp] theorem advanceEP_phase (s : State) : (advanceEP s).phase = s.phase := rfl

/-! ### takeHalt -/

@[simp] theorem takeHalt_cfg (s : State) (c : HaltCause) : (takeHalt s c).cfg = s.cfg := rfl
@[simp] theorem takeHalt_core (s : State) (c : HaltCause) : (takeHalt s c).core = s.core := rfl
@[simp] theorem takeHalt_agents (s : State) (c : HaltCause) :
    (takeHalt s c).agents = s.agents.modify (cur s) (haltAgent s.cfg.mode c) := rfl
@[simp] theorem takeHalt_buffer (s : State) (c : HaltCause) : (takeHalt s c).buffer = s.buffer := rfl
@[simp] theorem takeHalt_iter (s : State) (c : HaltCause) : (takeHalt s c).iter = s.iter := rfl
@[simp] theorem takeHalt_inPos (s : State) (c : HaltCause) : (takeHalt s c).inPos = s.inPos := rfl
@[simp] theorem takeHalt_output (s : State) (c : HaltCause) : (takeHalt s c).output = s.output := rfl
@[simp] theorem takeHalt_arenaStatus (s : State) (c : HaltCause) : (takeHalt s c).arenaStatus = s.arenaStatus := rfl
@[simp] theorem takeHalt_configError (s : State) (c : HaltCause) : (takeHalt s c).configError = s.configError := rfl
@[simp] theorem takeHalt_round (s : State) (c : HaltCause) : (takeHalt s c).round = s.round := rfl
@[simp] theorem takeHalt_cycle (s : State) (c : HaltCause) : (takeHalt s c).cycle = s.cycle := rfl
@[simp] theorem takeHalt_turn (s : State) (c : HaltCause) : (takeHalt s c).turn = s.turn := rfl
@[simp] theorem takeHalt_drawPos (s : State) (c : HaltCause) : (takeHalt s c).drawPos = s.drawPos := rfl
@[simp] theorem takeHalt_phase (s : State) (c : HaltCause) : (takeHalt s c).phase = s.phase := rfl

/-! ### setBuffer -/

@[simp] theorem setBuffer_cfg (s : State) (b : Byte) : (setBuffer s b).cfg = s.cfg := rfl
@[simp] theorem setBuffer_core (s : State) (b : Byte) : (setBuffer s b).core = s.core := rfl
@[simp] theorem setBuffer_agents (s : State) (b : Byte) : (setBuffer s b).agents = s.agents := rfl
@[simp] theorem setBuffer_buffer (s : State) (b : Byte) :
    (setBuffer s b).buffer = b := rfl
@[simp] theorem setBuffer_runStatus (s : State) (b : Byte) : (setBuffer s b).runStatus = s.runStatus := rfl
@[simp] theorem setBuffer_iter (s : State) (b : Byte) : (setBuffer s b).iter = s.iter := rfl
@[simp] theorem setBuffer_inPos (s : State) (b : Byte) : (setBuffer s b).inPos = s.inPos := rfl
@[simp] theorem setBuffer_output (s : State) (b : Byte) : (setBuffer s b).output = s.output := rfl
@[simp] theorem setBuffer_arenaStatus (s : State) (b : Byte) : (setBuffer s b).arenaStatus = s.arenaStatus := rfl
@[simp] theorem setBuffer_configError (s : State) (b : Byte) : (setBuffer s b).configError = s.configError := rfl
@[simp] theorem setBuffer_round (s : State) (b : Byte) : (setBuffer s b).round = s.round := rfl
@[simp] theorem setBuffer_cycle (s : State) (b : Byte) : (setBuffer s b).cycle = s.cycle := rfl
@[simp] theorem setBuffer_turn (s : State) (b : Byte) : (setBuffer s b).turn = s.turn := rfl
@[simp] theorem setBuffer_drawPos (s : State) (b : Byte) : (setBuffer s b).drawPos = s.drawPos := rfl
@[simp] theorem setBuffer_phase (s : State) (b : Byte) : (setBuffer s b).phase = s.phase := rfl

/-! ### outWrite -/

@[simp] theorem outWrite_cfg (s : State) (b : Byte) : (outWrite s b).cfg = s.cfg := rfl
@[simp] theorem outWrite_core (s : State) (b : Byte) : (outWrite s b).core = s.core := rfl
@[simp] theorem outWrite_agents (s : State) (b : Byte) : (outWrite s b).agents = s.agents := rfl
@[simp] theorem outWrite_buffer (s : State) (b : Byte) : (outWrite s b).buffer = s.buffer := rfl
@[simp] theorem outWrite_runStatus (s : State) (b : Byte) : (outWrite s b).runStatus = s.runStatus := rfl
@[simp] theorem outWrite_iter (s : State) (b : Byte) : (outWrite s b).iter = s.iter := rfl
@[simp] theorem outWrite_inPos (s : State) (b : Byte) : (outWrite s b).inPos = s.inPos := rfl
@[simp] theorem outWrite_output (s : State) (b : Byte) :
    (outWrite s b).output = s.output ++ [b] := rfl
@[simp] theorem outWrite_arenaStatus (s : State) (b : Byte) : (outWrite s b).arenaStatus = s.arenaStatus := rfl
@[simp] theorem outWrite_configError (s : State) (b : Byte) : (outWrite s b).configError = s.configError := rfl
@[simp] theorem outWrite_round (s : State) (b : Byte) : (outWrite s b).round = s.round := rfl
@[simp] theorem outWrite_cycle (s : State) (b : Byte) : (outWrite s b).cycle = s.cycle := rfl
@[simp] theorem outWrite_turn (s : State) (b : Byte) : (outWrite s b).turn = s.turn := rfl
@[simp] theorem outWrite_drawPos (s : State) (b : Byte) : (outWrite s b).drawPos = s.drawPos := rfl
@[simp] theorem outWrite_phase (s : State) (b : Byte) : (outWrite s b).phase = s.phase := rfl

/-! ### inConsume -/

@[simp] theorem inConsume_cfg (s : State) : (inConsume s).cfg = s.cfg := rfl
@[simp] theorem inConsume_core (s : State) : (inConsume s).core = s.core := rfl
@[simp] theorem inConsume_agents (s : State) : (inConsume s).agents = s.agents := rfl
@[simp] theorem inConsume_buffer (s : State) : (inConsume s).buffer = s.buffer := rfl
@[simp] theorem inConsume_runStatus (s : State) : (inConsume s).runStatus = s.runStatus := rfl
@[simp] theorem inConsume_iter (s : State) : (inConsume s).iter = s.iter := rfl
@[simp] theorem inConsume_output (s : State) : (inConsume s).output = s.output := rfl
@[simp] theorem inConsume_arenaStatus (s : State) : (inConsume s).arenaStatus = s.arenaStatus := rfl
@[simp] theorem inConsume_configError (s : State) : (inConsume s).configError = s.configError := rfl
@[simp] theorem inConsume_round (s : State) : (inConsume s).round = s.round := rfl
@[simp] theorem inConsume_cycle (s : State) : (inConsume s).cycle = s.cycle := rfl
@[simp] theorem inConsume_turn (s : State) : (inConsume s).turn = s.turn := rfl
@[simp] theorem inConsume_drawPos (s : State) : (inConsume s).drawPos = s.drawPos := rfl
@[simp] theorem inConsume_phase (s : State) : (inConsume s).phase = s.phase := rfl

/-! ### nextTurn -/

@[simp] theorem nextTurn_cfg (s : State) : (nextTurn s).cfg = s.cfg := by unfold nextTurn; split <;> rfl
@[simp] theorem nextTurn_core (s : State) : (nextTurn s).core = s.core := by unfold nextTurn; split <;> rfl
@[simp] theorem nextTurn_agents (s : State) : (nextTurn s).agents = s.agents := by unfold nextTurn; split <;> rfl
@[simp] theorem nextTurn_buffer (s : State) : (nextTurn s).buffer = s.buffer := by unfold nextTurn; split <;> rfl
@[simp] theorem nextTurn_runStatus (s : State) : (nextTurn s).runStatus = s.runStatus := by unfold nextTurn; split <;> rfl
@[simp] theorem nextTurn_iter (s : State) : (nextTurn s).iter = s.iter := by unfold nextTurn; split <;> rfl
@[simp] theorem nextTurn_inPos (s : State) : (nextTurn s).inPos = s.inPos := by unfold nextTurn; split <;> rfl
@[simp] theorem nextTurn_output (s : State) : (nextTurn s).output = s.output := by unfold nextTurn; split <;> rfl
@[simp] theorem nextTurn_arenaStatus (s : State) : (nextTurn s).arenaStatus = s.arenaStatus := by unfold nextTurn; split <;> rfl
@[simp] theorem nextTurn_configError (s : State) : (nextTurn s).configError = s.configError := by unfold nextTurn; split <;> rfl
@[simp] theorem nextTurn_round (s : State) : (nextTurn s).round = s.round := by unfold nextTurn; split <;> rfl
@[simp] theorem nextTurn_drawPos (s : State) : (nextTurn s).drawPos = s.drawPos := by unfold nextTurn; split <;> rfl
@[simp] theorem nextTurn_phase (s : State) : (nextTurn s).phase = s.phase := by unfold nextTurn; split <;> rfl

/-! ### The stepping agent's number depends on the configuration, ROUND and TURN only -/

@[simp] theorem cur_memWrite (s : State) (x : Int) (v : Nibble) : cur (memWrite s x v) = cur s := rfl
@[simp] theorem cur_writeChar (s : State) (x : Int) (b : Byte) : cur (writeChar s x b) = cur s := rfl
@[simp] theorem cur_updCur (s : State) (f : Agent → Agent) : cur (updCur s f) = cur s := rfl
@[simp] theorem cur_setCP (s : State) (x : Int) : cur (setCP s x) = cur s := rfl
@[simp] theorem cur_setEP (s : State) (x : Int) : cur (setEP s x) = cur s := rfl
@[simp] theorem cur_advanceEP (s : State) : cur (advanceEP s) = cur s := rfl
@[simp] theorem cur_takeHalt (s : State) (c : HaltCause) : cur (takeHalt s c) = cur s := rfl
@[simp] theorem cur_setBuffer (s : State) (b : Byte) : cur (setBuffer s b) = cur s := rfl
@[simp] theorem cur_outWrite (s : State) (b : Byte) : cur (outWrite s b) = cur s := rfl
@[simp] theorem cur_inConsume (s : State) : cur (inConsume s) = cur s := rfl

end Sys2Proof.Machine
end

