-- ==== Sys2Proof/Laws/Wrap.lean ====
section
/-! SUPPORT. Address arithmetic: what `wrap` gives (spec/00_scope.md R8). -/

namespace Sys2Proof.Machine

/-- A residue is a core address (R8). -/
theorem wrap_lt {n : Nat} (h : 0 < n) (a : Int) : wrap n a < n := by
  have h1 := Int.emod_nonneg a (b := n) (by omega)
  have h2 := Int.emod_lt_of_pos a (b := n) (by omega)
  unfold wrap; omega

/-- The residue as an integer. -/
theorem wrap_cast {n : Nat} (h : 0 < n) (a : Int) : (wrap n a : Int) = a % n := by
  have := Int.emod_nonneg a (b := n) (by omega)
  unfold wrap; omega

/-- On naturals `wrap` is the remainder, also for n = 0 (log 14). -/
@[simp] theorem wrap_natCast (n a : Nat) : wrap n (a : Int) = a % n := by
  unfold wrap; rw [← Int.natCast_emod]; rfl

@[simp] theorem wrap_natCast_add_one (n a : Nat) : wrap n ((a : Int) + 1) = (a + 1) % n := by
  exact_mod_cast wrap_natCast n (a + 1)

@[simp] theorem wrap_natCast_add_two (n a : Nat) : wrap n ((a : Int) + 2) = (a + 2) % n := by
  exact_mod_cast wrap_natCast n (a + 2)

/-- Equal residues are equal remainders. -/
theorem wrap_eq_iff {n : Nat} (h : 0 < n) (a b : Int) :
    wrap n a = wrap n b ↔ a % n = b % n := by
  rw [← wrap_cast h, ← wrap_cast h, Int.natCast_inj]

/-- A subtraction of at most n from a natural, without leaving the naturals. -/
theorem wrap_natCast_sub {n : Nat} (a k : Nat) (hk : k ≤ n) :
    wrap n ((a : Int) - k) = (a + n - k) % n := by
  rw [← wrap_natCast]
  have e : ((a + n - k : Nat) : Int) = (a - k : Int) + n := by omega
  unfold wrap; rw [e, Int.add_emod_right]

/-- A residue may be reduced before a sum. -/
@[simp] theorem wrap_add_wrap {n : Nat} (h : 0 < n) (a k : Int) :
    wrap n ((wrap n a : Int) + k) = wrap n (a + k) := by
  rw [wrap_eq_iff h, wrap_cast h, Int.emod_add_emod]

/-- An address below n is its own residue. -/
theorem wrap_of_lt {n a : Nat} (h : a < n) : wrap n (a : Int) = a := by
  rw [wrap_natCast, Nat.mod_eq_of_lt h]

/-- Neighbouring addresses of a core of two or more cells differ (R54). -/
theorem wrap_sub_one_ne {n : Nat} (h : 2 ≤ n) (a : Int) : wrap n (a - 1) ≠ wrap n a := by
  rw [Ne, wrap_eq_iff (by omega)]
  intro e
  have d : (n : Int) ∣ 1 := by
    have := Int.emod_eq_emod_iff_emod_sub_eq_zero.mp e.symm
    simpa using Int.dvd_of_emod_eq_zero this
  have := Int.le_of_dvd (by norm_num) d
  omega

end Sys2Proof.Machine
end

