-- ==== Sys2Proof/Laws/Ops.lean ====
section
/-! SUPPORT. What each shared operation does, said once: cell and character access, the stepping
agent's entry, the trailing advance and the halt. -/

namespace Sys2Proof.Machine

/-! ### Cells and characters -/

/-- A cell read after a cell write (R51, R52). -/
@[simp] theorem memRead_memWrite (s : State) (x y : Int) (v : Nibble) :
    memRead (memWrite s x v) y =
      if wrap s.cfg.coreSize y = wrap s.cfg.coreSize x then v else memRead s y := by
  simp [memRead]

/-- A read depends on the core and its size only. -/
theorem memRead_congr {s t : State} (hc : t.core = s.core) (hn : t.cfg = s.cfg) (x : Int) :
    memRead t x = memRead s x := by
  simp [memRead, hc, hn]

/-- A cell read after a character write: the low nibble at p, the high nibble at p - 1 (R54). -/
@[simp] theorem memRead_writeChar (s : State) (p y : Int) (b : Byte) :
    memRead (writeChar s p b) y =
      if wrap s.cfg.coreSize y = wrap s.cfg.coreSize p then b.extractLsb' 0 4
      else if wrap s.cfg.coreSize y = wrap s.cfg.coreSize (p - 1) then b.extractLsb' 4 4
      else memRead s y := by
  simp [writeChar]

/-- A character depends on the core and its size only. -/
theorem readChar_congr {s t : State} (hc : t.core = s.core) (hn : t.cfg = s.cfg) (x : Int) :
    readChar t x = readChar s x := by
  simp [readChar, memRead_congr hc hn]

/-- A cell write keeps the canonical form. -/
theorem memWrite_wf {s : State} (x : Int) (v : Nibble) (h : Memory.wf s.core) :
    Memory.wf (memWrite s x v).core := Memory.set_wf _ _ h

/-- A character write keeps the canonical form. -/
theorem writeChar_wf {s : State} (p : Int) (b : Byte) (h : Memory.wf s.core) :
    Memory.wf (writeChar s p b).core := memWrite_wf _ _ (memWrite_wf _ _ h)

/-! ### The stepping agent's entry -/

/-- The stepping agent's entry, where the table has it. -/
theorem curAgent_of_some {s : State} {a : Agent} (h : s.agents[cur s]? = some a) :
    curAgent s = a := by
  simp [curAgent, List.getD_eq_getElem?_getD, h]

/-- A list changed at an index it has is that list with the new entry set. -/
theorem modify_eq_set_of_some {l : List Agent} {i : Nat} {a : Agent} (f : Agent → Agent)
    (h : l[i]? = some a) : l.modify i f = l.set i (f a) := by
  apply List.ext_getElem?
  intro j
  rw [List.getElem?_modify, List.getElem?_set]
  by_cases e : i = j
  · subst e
    have hi : i < l.length := (List.getElem?_eq_some_iff.mp h).1
    obtain ⟨_, rfl⟩ := List.getElem?_eq_some_iff.mp h
    simp [hi]
  · simp [e]

/-- Changing the stepping agent's entry. -/
theorem updCur_eq {s : State} {a : Agent} (f : Agent → Agent) (h : s.agents[cur s]? = some a) :
    updCur s f = { s with agents := s.agents.set (cur s) (f a) } := by
  simp [updCur, modify_eq_set_of_some f h]

/-- The trailing advance (R93). -/
theorem advanceEP_eq {s : State} {a : Agent} (h : s.agents[cur s]? = some a) :
    advanceEP s =
      { s with agents := s.agents.set (cur s) { a with ep := (a.ep + 1) % s.cfg.coreSize } } := by
  unfold advanceEP setEP
  rw [updCur_eq _ h, curAgent_of_some h]
  simp

/-- A halt of the stepping agent in SINGLE mode (R161). -/
theorem takeHalt_single {s : State} {a : Agent} (c : HaltCause) (hm : s.cfg.mode = .single)
    (h : s.agents[cur s]? = some a) :
    takeHalt s c =
      { s with agents := s.agents.set (cur s) { a with haltCause := c }, runStatus := .halted } := by
  unfold takeHalt
  rw [modify_eq_set_of_some _ h]
  simp [haltAgent, hm]

/-- A halt of the stepping agent in ARENA mode (R161, R185). -/
theorem takeHalt_arena {s : State} {a : Agent} (c : HaltCause) (hm : s.cfg.mode = .arena)
    (h : s.agents[cur s]? = some a) :
    takeHalt s c =
      { s with agents := s.agents.set (cur s) { a with haltCause := c, alive := false } } := by
  unfold takeHalt
  rw [modify_eq_set_of_some _ h]
  simp [haltAgent, hm]

/-- The entries other than the stepping agent's are kept (R99). -/
theorem updCur_getElem?_ne (s : State) (f : Agent → Agent) {j : Nat} (h : j ≠ cur s) :
    (updCur s f).agents[j]? = s.agents[j]? := by
  simp [h.symm]

end Sys2Proof.Machine
end

