-- ==== Sys2Proof/Laws/Loader.lean ====
section
/-! SUPPORT. The loader: one move of its loop, its count and cursor, and that it keeps the core's
canonical form (spec/70_reset_and_hazards.md R201). -/

namespace Sys2Proof.Machine

/-- The loader at a symbol: one cell written, cursor and count moved (R201). -/
theorem loadFrom_cons_some {n : Nat} {ch : Char} {i : Instr} (h : ofSymbol ch = some i)
    (rest : Program) (m : Memory) (c k : Nat) :
    loadFrom n (ch :: rest) m c k =
      loadFrom n rest (m.set (c % n) (opcode i)) ((c + 1) % n) (k + 1) := by
  simp [loadFrom, h]

/-- The loader at an ignored character (R76). -/
theorem loadFrom_cons_none {n : Nat} {ch : Char} (h : ofSymbol ch = none)
    (rest : Program) (m : Memory) (c k : Nat) :
    loadFrom n (ch :: rest) m c k = loadFrom n rest m c k := by
  simp [loadFrom, h]

/-- The count is the number of symbols (R201). -/
theorem loadFrom_len (n : Nat) (p : Program) (m : Memory) (c k : Nat) :
    (loadFrom n p m c k).len = k + programLength p := by
  induction p generalizing m c k with
  | nil => rfl
  | cons ch rest ih =>
    cases h : ofSymbol ch with
    | none => rw [loadFrom_cons_none h, ih, programLength, programLength, recognise_cons_none h]
    | some i =>
      rw [loadFrom_cons_some h, ih, programLength, programLength, recognise_cons_some h]
      simp; omega

/-- A load keeps the core canonical and inside 0 … n-1, and its cursor is a core address. -/
theorem loadFrom_wf {n : Nat} (hn : 0 < n) (p : Program) {m : Memory} {c : Nat} (k : Nat)
    (hw : Memory.wf m) (hm : ∀ x ∈ m, x.1 < n) (hc : c < n) :
    Memory.wf (loadFrom n p m c k).core ∧ (∀ x ∈ (loadFrom n p m c k).core, x.1 < n) ∧
      (loadFrom n p m c k).cursor < n := by
  induction p generalizing m c k with
  | nil => exact ⟨hw, hm, hc⟩
  | cons ch rest ih =>
    cases h : ofSymbol ch with
    | none => rw [loadFrom_cons_none h]; exact ih _ hw hm hc
    | some i =>
      rw [loadFrom_cons_some h]
      exact ih _ (Memory.set_wf _ _ hw) (Memory.set_lt _ (Nat.mod_lt _ hn) hm) (Nat.mod_lt _ hn)

end Sys2Proof.Machine
end

