-- ==== Sys2Proof/Laws/Arena.lean ====
section
/-! SUPPORT. The arena scheduler's operations: windows, draws, the placement's frame, the load of the
agent table, and the turn counter (spec/60_exceptions.md section 6). -/

namespace Sys2Proof.Machine

/-- The members of a window (R179). -/
theorem mem_window {n w start a : Nat} (hn : 0 < n) :
    a ∈ window n w start ↔
      ∃ k : Int, -(w : Int) ≤ k ∧ k ≤ w ∧ (a : Int) = (start + k) % n := by
  unfold window
  simp only [List.mem_map, List.mem_range]
  constructor
  · rintro ⟨k, hk, rfl⟩
    refine ⟨(k : Int) - w, by omega, by omega, ?_⟩
    rw [wrap_cast hn]; congr 1; ring
  · rintro ⟨k, h1, h2, h3⟩
    refine ⟨(k + w).toNat, by omega, ?_⟩
    have e : ((k + w).toNat : Int) = k + w := by omega
    have e2 : (wrap n ((start : Int) + (k + w) - w) : Int) = a := by
      rw [wrap_cast hn, h3]; congr 1; ring
    rw [e]
    exact_mod_cast e2

/-- The members of `F` (R180). -/
theorem mem_unreserved {n a : Nat} {res : List Nat} :
    a ∈ unreserved n res ↔ a < n ∧ a ∉ res := by
  simp [unreserved]

/-- A draw answers a member (R172). -/
theorem draw_mem {f : List Nat} {x a : Nat} (h : draw f x = some a) : a ∈ f :=
  List.mem_of_getElem? h

/-- A placement changes starts and the random channel's position, nothing else (R180, R181). -/
theorem placeFrom_frame (todo i : Nat) (res : List Nat) (s : State) :
    (placeFrom todo i res s).2 =
        { s with agents := (placeFrom todo i res s).2.agents,
                 drawPos := (placeFrom todo i res s).2.drawPos } ∧
      (placeFrom todo i res s).2.agents.map (fun a => { a with start := 0 }) =
        s.agents.map (fun a => { a with start := 0 }) := by
  induction todo generalizing i res s with
  | zero => exact ⟨rfl, rfl⟩
  | succ todo ih =>
    simp only [placeFrom]
    split
    · exact ⟨rfl, rfl⟩
    next a _ =>
      obtain ⟨h1, h2⟩ := ih (i + 1) (res ++ exclusion s.cfg a)
        (setStart { s with drawPos := s.drawPos + 1 } i a)
      refine ⟨h1, h2.trans ?_⟩
      simp only [setStart]
      apply List.ext_getElem?
      intro j
      simp only [List.getElem?_map, List.getElem?_modify]
      by_cases e : i = j
      · subst e; cases s.agents[i]? <;> simp
      · simp [e]

/-- The load keeps the number of agents. -/
@[simp] theorem loadAgents_length (n : Nat) (ps : List Program) (as : List Agent) (m : Memory) :
    (loadAgents n ps as m).2.length = as.length := by
  induction ps generalizing as m with
  | nil => simp [loadAgents]
  | cons p ps ih => cases as <;> simp [loadAgents, ih]

/-- What the load of an agent does not set, the load of the table keeps. -/
theorem loadAgents_map {β : Type} (g : Agent → β) (hg : ∀ a l, g (loadedAgent a l) = g a) (n : Nat)
    (ps : List Program) (as : List Agent) (m : Memory) :
    (loadAgents n ps as m).2.map g = as.map g := by
  induction ps generalizing as m with
  | nil => simp [loadAgents]
  | cons p ps ih => cases as <;> simp [loadAgents, ih, hg]

/-- A turn that is not the pass's last (R184). -/
theorem nextTurn_of_lt {s : State} (h : s.turn + 1 < agentCount s.cfg) :
    nextTurn s = { s with turn := s.turn + 1 } := by
  rw [nextTurn, if_pos h]

/-- The last turn of a pass (R186). -/
theorem nextTurn_of_le {s : State} (h : agentCount s.cfg ≤ s.turn + 1) :
    nextTurn s = { s with turn := 0, cycle := s.cycle + 1 } := by
  rw [nextTurn, if_neg (by omega)]

/-- The shared pot is never exceeded (R188). -/
theorem award_mul_le (k sv : Nat) : award k sv * sv ≤ k * k - 1 := Nat.div_mul_le_self _ _

end Sys2Proof.Machine
end

