-- ==== Sys2Proof/Laws/Exec.lean ====
section
/-! SUPPORT. What the execution of one instruction and one transition of the machine can do, said once
for every later proof: cite `exec_shape` and `step_shape` instead of unfolding `exec` and `step`. -/

namespace Sys2Proof.Machine

/-! ### One instruction -/

/-- The bracket instructions. -/
abbrev bracketInstrs : List Instr := [.opn, .close, .copen, .cclose]

/-- The states an instruction can end in, by the shared operations that make them. -/
inductive ExecShape (s : State) : Instr → State → Prop
  | move (i k) : i ∈ [Instr.next, .prev, .next2, .prev2] → ExecShape s i (advanceEP (moveCP s k))
  | cell (i v) : i ∈ [Instr.inc, .dec] → ExecShape s i (advanceEP (setCellAtCP s v))
  | char (i v) : i ∈ [Instr.cinc, .cdec] → ExecShape s i (advanceEP (setCharAtCP s v))
  | out : s.cfg.mode = .single → ExecShape s .out (advanceEP (outWrite s (charAtCP s)))
  | inp : s.cfg.mode = .single →
      ExecShape s .inp (advanceEP (setCharAtCP (inConsume s) (inValue s)))
  | swap : s.cfg.mode = .single →
      ExecShape s .swap (advanceEP (setBuffer (setCharAtCP s s.buffer) (charAtCP s)))
  | noOp (i) : i ∈ [Instr.out, .inp, .swap] → s.cfg.mode = .arena → ExecShape s i (advanceEP s)
  | notTaken (i) : i ∈ bracketInstrs → ExecShape s i (advanceEP s)
  | jump (i d f q) : i ∈ bracketInstrs → resolve s d f = some q →
      ExecShape s i (advanceEP (setEP s q))
  | unmatched (i d f) : i ∈ bracketInstrs → resolve s d f = none →
      ExecShape s i (takeHalt s .unmatched)
  | halt : ExecShape s .halt (takeHalt s .haltOp)

/-- What a taken bracket can do (R134). -/
theorem jump_shape (s : State) (d : Dir) (f : Family) {i : Instr} (hi : i ∈ bracketInstrs) :
    ExecShape s i (jump s d f) := by
  unfold Machine.jump
  split
  next q hq => exact .jump i d f q hi hq
  next hq => exact .unmatched i d f hi hq

/-- What an instruction that answers a next state did. -/
theorem exec_shape {i : Instr} {s t : State} (h : exec i s = .next t) : ExecShape s i t := by
  cases i <;> simp only [exec, execHalt, execNext, execPrev, execNext2, execPrev2, execInc, execDec,
    execCinc, execCdec, execOut, execIn, execOpen, execClose, execCopen, execCclose, execSwap] at h
  case opn | close | copen | cclose =>
    split at h <;> simp only [Host.Outcome.next.injEq] at h <;> subst h <;>
      first | exact jump_shape _ _ _ (by simp) | exact .notTaken _ (by simp)
  case out | inp | swap =>
    split at h <;> simp only [Host.Outcome.next.injEq] at h <;> subst h <;>
      first
      | exact .out ‹_› | exact .inp ‹_› | exact .swap ‹_› | exact .noOp _ (by simp) ‹_›
  all_goals simp only [Host.Outcome.next.injEq] at h; subst h
  case halt => exact .halt
  case next | prev | next2 | prev2 => exact .move _ _ (by simp)
  case inc | dec => exact .cell _ _ (by simp)
  case cinc | cdec => exact .char _ _ (by simp)

/-- No instruction writes the configuration or the controller's own registers. -/
theorem exec_controller {i : Instr} {s t : State} (h : exec i s = .next t) :
    t.cfg = s.cfg ∧ t.iter = s.iter ∧ t.turn = s.turn ∧ t.cycle = s.cycle ∧ t.round = s.round ∧
      t.phase = s.phase ∧ t.arenaStatus = s.arenaStatus ∧ t.configError = s.configError ∧
      t.drawPos = s.drawPos := by
  cases exec_shape h <;> exact ⟨rfl, rfl, rfl, rfl, rfl, rfl, rfl, rfl, rfl⟩

/-! ### One transition -/

/-- A mapped next state comes from a next state. -/
theorem mapNext_next {f : State → State} {o : Host.Outcome State Fault Refusal} {t : State}
    (h : mapNext f o = .next t) : ∃ u, o = .next u ∧ t = f u := by
  unfold mapNext at h
  split at h <;> simp at h
  exact ⟨_, rfl, h.symm⟩

/-- The states a transition can end in, with the guard of each. -/
inductive StepShape (s : State) : State → Prop
  | boot (p) : s.cfg.mode = .single → 2 ≤ s.cfg.coreSize → s.phase = .loading →
      s.cfg.programs = [p] → StepShape s (bootSingle p s)
  | stop : s.cfg.mode = .single → 2 ≤ s.cfg.coreSize → s.phase = .running →
      s.runStatus = .running → s.cfg.maxIter ≤ s.iter → StepShape s (stopRun s)
  | single (u) : s.cfg.mode = .single → 2 ≤ s.cfg.coreSize → s.phase = .running →
      s.runStatus = .running → s.iter < s.cfg.maxIter → exec (decode (fetch s)) s = .next u →
      StepShape s (countIter u)
  | start : s.cfg.mode = .arena → s.arenaStatus = .idle → StepShape s (startArena s)
  | begin : s.cfg.mode = .arena → s.arenaStatus = .running → s.phase = .loading →
      StepShape s (beginRound s)
  | roundEnd : s.cfg.mode = .arena → s.arenaStatus = .running → s.phase = .running →
      s.turn = 0 → passWanted s = false → StepShape s (endRound s)
  | turn (u) : s.cfg.mode = .arena → s.arenaStatus = .running → s.phase = .running →
      (s.turn = 0 → passWanted s = true) → curAlive s = true →
      exec (decode (fetch s)) s = .next u → StepShape s (nextTurn u)
  | skip : s.cfg.mode = .arena → s.arenaStatus = .running → s.phase = .running →
      (s.turn = 0 → passWanted s = true) → curAlive s = false → StepShape s (nextTurn s)

/-- What a transition that answers a next state did. -/
theorem step_shape {s t : State} (h : step s = .next t) : StepShape s t := by
  unfold step at h
  split at h
  next hm =>
    unfold singleStep at h
    split at h
    · simp at h
    next hN =>
    split at h
    next hp =>
      unfold startSingle at h
      split at h
      next p hpr => simp at h; subst h; exact .boot p hm (by omega) hp hpr
      · simp at h
    next hp =>
      unfold runSingle at h
      split at h
      next hr =>
        split at h
        next hi => simp at h; subst h; exact .stop hm (by omega) hp hr hi
        next hi =>
          obtain ⟨u, hu, rfl⟩ := mapNext_next h
          exact .single _ hm (by omega) hp hr (by omega) hu
      · simp at h
      · simp at h
  next hm =>
    unfold arenaStep at h
    split at h
    next hs => simp at h; subst h; exact .start hm hs
    next hs =>
      split at h
      next hp => simp at h; subst h; exact .begin hm hs hp
      next hp =>
        unfold runRound at h
        split at h
        next hc => simp at h; subst h; exact .roundEnd hm hs hp hc.1 hc.2
        next hc =>
          have hg : s.turn = 0 → passWanted s = true := by
            intro h0; by_contra hw; exact hc ⟨h0, by simpa using hw⟩
          unfold turnStep at h
          split at h
          next ha =>
            obtain ⟨u, hu, rfl⟩ := mapNext_next h
            exact .turn _ hm hs hp hg ha hu
          next ha => simp at h; subst h; exact .skip hm hs hp hg (by simpa using ha)
    · simp at h
    · simp at h

end Sys2Proof.Machine
end

