-- ==== Sys2Proof/Laws/PerInstr.lean ====
section
/-! SUPPORT. The statements made once per instruction, one lemma for each constructor of `Instr`. -/

namespace Sys2Proof.Laws

/-- One cell and one symbol stand for the instruction and no other: its encoding is one cell that
decodes to it, its symbol is read as it, its symbol's ASCII byte is read as it, and it is well formed
(R70, R72, R75, R78). -/
def SymbolRoundTrip.Statement (i : Sys2Proof.Instr) : Prop :=
  Sys2Proof.decodeCells (Sys2Proof.encode i) = .ok (i, []) ∧
    Sys2Proof.ofSymbol (Sys2Proof.symbol i) = some i ∧
    Sys2Proof.ofByte (Sys2Proof.asciiCode i) = some i ∧ i.wellFormed = true

theorem SymbolRoundTrip.halt : SymbolRoundTrip.Statement .halt :=
  ⟨rfl, by decide, by decide, rfl⟩

theorem SymbolRoundTrip.next : SymbolRoundTrip.Statement .next :=
  ⟨rfl, by decide, by decide, rfl⟩

theorem SymbolRoundTrip.prev : SymbolRoundTrip.Statement .prev :=
  ⟨rfl, by decide, by decide, rfl⟩

theorem SymbolRoundTrip.next2 : SymbolRoundTrip.Statement .next2 :=
  ⟨rfl, by decide, by decide, rfl⟩

theorem SymbolRoundTrip.prev2 : SymbolRoundTrip.Statement .prev2 :=
  ⟨rfl, by decide, by decide, rfl⟩

theorem SymbolRoundTrip.inc : SymbolRoundTrip.Statement .inc :=
  ⟨rfl, by decide, by decide, rfl⟩

theorem SymbolRoundTrip.dec : SymbolRoundTrip.Statement .dec :=
  ⟨rfl, by decide, by decide, rfl⟩

theorem SymbolRoundTrip.cinc : SymbolRoundTrip.Statement .cinc :=
  ⟨rfl, by decide, by decide, rfl⟩

theorem SymbolRoundTrip.cdec : SymbolRoundTrip.Statement .cdec :=
  ⟨rfl, by decide, by decide, rfl⟩

theorem SymbolRoundTrip.out : SymbolRoundTrip.Statement .out :=
  ⟨rfl, by decide, by decide, rfl⟩

theorem SymbolRoundTrip.inp : SymbolRoundTrip.Statement .inp :=
  ⟨rfl, by decide, by decide, rfl⟩

theorem SymbolRoundTrip.opn : SymbolRoundTrip.Statement .opn :=
  ⟨rfl, by decide, by decide, rfl⟩

theorem SymbolRoundTrip.close : SymbolRoundTrip.Statement .close :=
  ⟨rfl, by decide, by decide, rfl⟩

theorem SymbolRoundTrip.copen : SymbolRoundTrip.Statement .copen :=
  ⟨rfl, by decide, by decide, rfl⟩

theorem SymbolRoundTrip.cclose : SymbolRoundTrip.Statement .cclose :=
  ⟨rfl, by decide, by decide, rfl⟩

theorem SymbolRoundTrip.swap : SymbolRoundTrip.Statement .swap :=
  ⟨rfl, by decide, by decide, rfl⟩

end Sys2Proof.Laws
end

