-- ==== Sys2Proof/Laws/Resolver.lean ====
section
/-! SUPPORT. The resolver's pieces: its codes, one move of its depth, one move of its scan, and the two
outcomes of a jump (spec/44_control.md R132 to R134). -/

namespace Sys2Proof.Machine

/-- The two codes of a scan differ. -/
theorem raiseCode_ne_lowerCode (d : Dir) (f : Family) : raiseCode d f ≠ lowerCode d f := by
  cases d <;> cases f <;> decide

/-- One cell moves the depth by one, or not at all (R132). -/
theorem nextDepth_cases (d : Dir) (f : Family) (v : Nibble) (k : Nat) :
    (v = raiseCode d f ∧ nextDepth d f v k = k + 1) ∨
    (v = lowerCode d f ∧ nextDepth d f v k = k - 1) ∨
    (v ≠ raiseCode d f ∧ v ≠ lowerCode d f ∧ nextDepth d f v k = k) := by
  unfold nextDepth
  split
  · exact .inl ⟨‹_›, rfl⟩
  · split
    · exact .inr (.inl ⟨‹_›, rfl⟩)
    · exact .inr (.inr ⟨‹_›, ‹_›, rfl⟩)

/-- One move of the scan: the failure at the start, the match at depth 0, or the next cell (R132). -/
theorem scan_succ (s : State) (d : Dir) (f : Family) (start fuel p depth : Nat) :
    scan s d f start (fuel + 1) p depth =
      if wrap s.cfg.coreSize (p + dirStep d) = start then none
      else if nextDepth d f (memRead s (wrap s.cfg.coreSize (p + dirStep d) : Nat)) depth = 0 then
        some (wrap s.cfg.coreSize (p + dirStep d))
      else scan s d f start fuel (wrap s.cfg.coreSize (p + dirStep d))
        (nextDepth d f (memRead s (wrap s.cfg.coreSize (p + dirStep d) : Nat)) depth) := rfl

/-- A scan reads the core and its size only. -/
theorem scan_congr {s t : State} (hc : t.core = s.core) (hn : t.cfg = s.cfg) (d : Dir) (f : Family)
    (start fuel p depth : Nat) :
    scan t d f start fuel p depth = scan s d f start fuel p depth := by
  induction fuel generalizing p depth with
  | zero => rfl
  | succ fuel ih => simp only [scan, hn, memRead_congr hc hn, ih]

/-- A scan's answer is a core address other than its start. -/
theorem scan_some {s : State} {d : Dir} {f : Family} {start q : Nat} (hn : 0 < s.cfg.coreSize) :
    ∀ fuel p depth, scan s d f start fuel p depth = some q → q < s.cfg.coreSize ∧ q ≠ start := by
  intro fuel
  induction fuel with
  | zero => intro p depth h; simp [scan] at h
  | succ fuel ih =>
    intro p depth h
    rw [scan_succ] at h
    split at h
    · simp at h
    · split at h
      · simp at h; subst h; exact ⟨wrap_lt hn _, ‹_›⟩
      · exact ih _ _ h

/-- A taken bracket with a match moves EP to the cell after the match and changes nothing else
(R94, R134). -/
theorem jump_of_some {s : State} {a : Agent} {d : Dir} {f : Family} {q : Nat}
    (h : s.agents[cur s]? = some a) (hq : resolve s d f = some q) (hlt : q < s.cfg.coreSize) :
    jump s d f =
      { s with agents := s.agents.set (cur s) { a with ep := (q + 1) % s.cfg.coreSize } } := by
  have hi := (List.getElem?_eq_some_iff.mp h).1
  have e : (setEP s q).agents[cur (setEP s q)]? = some { a with ep := q } := by
    show (setEP s q).agents[cur s]? = _
    rw [setEP, updCur_agents, modify_eq_set_of_some _ h, List.getElem?_set_self hi]
    simp [Nat.mod_eq_of_lt hlt]
  simp only [jump, hq]
  rw [advanceEP_eq e]
  simp only [setEP, updCur_eq _ h]
  simp [cur]

/-- A taken bracket without a match halts (R134). -/
theorem jump_of_none {s : State} {d : Dir} {f : Family} (hq : resolve s d f = none) :
    jump s d f = takeHalt s .unmatched := by
  simp only [jump, hq]

end Sys2Proof.Machine
end

