-- ==== Sys2Proof/Laws/Run.lean ====
section
/-! SUPPORT. Runs of several steps: how `RunsTo` is put together and taken apart. -/

namespace Sys2Proof.Machine

/-- A run of one step more, for any core. -/
theorem core_run_succ (M : Host.Core) (k : Nat) {s t : M.State} (h : M.step s = .next t) :
    M.run (k + 1) s = M.run k t := by
  rw [Host.Core.run]
  simp only [h]

/-- A run of one step more that ends in a state, for any core. -/
theorem core_run_inv (M : Host.Core) (k : Nat) {s t : M.State} (h : M.run (k + 1) s = .next t) :
    ∃ v, M.step s = .next v ∧ M.run k v = .next t := by
  rw [Host.Core.run] at h
  cases hs : M.step s with
  | next v => simp only [hs] at h; exact ⟨v, rfl, h⟩
  | fault r => simp only [hs] at h; cases h
  | refused r => simp only [hs] at h; cases h

/-- No step. -/
theorem RunsTo.zero (s : State) : RunsTo 0 s s := rfl

/-- One step before a run. -/
theorem RunsTo.succ {k : Nat} {s t u : State} (h : step s = .next t) (h2 : RunsTo k t u) :
    RunsTo (k + 1) s u :=
  (core_run_succ Sys2Proof.core k h).trans h2

/-- One step. -/
theorem RunsTo.one {s t : State} (h : step s = .next t) : RunsTo 1 s t := .succ h (.zero t)

/-- A run of at least one step begins with one. -/
theorem RunsTo.of_succ {k : Nat} {s u : State} (h : RunsTo (k + 1) s u) :
    ∃ t, step s = .next t ∧ RunsTo k t u :=
  core_run_inv Sys2Proof.core k h

/-- Runs compose. -/
theorem RunsTo.trans {k l : Nat} {s t u : State} (h1 : RunsTo k s t) (h2 : RunsTo l t u) :
    RunsTo (k + l) s u := by
  induction k generalizing s with
  | zero =>
    have e : (Host.Outcome.next s : Host.Outcome State Fault Refusal) = .next t := h1
    cases e
    simpa using h2
  | succ k ih =>
    obtain ⟨v, hv, hr⟩ := h1.of_succ
    rw [show k + 1 + l = k + l + 1 by omega]
    exact .succ hv (ih hr)

/-! ### Counting the steps of agents -/

@[simp] theorem agentSteps_zero (s : State) : agentSteps 0 s = 0 := rfl

/-- The count of a run of one transition more. -/
theorem agentSteps_succ {k : Nat} {s t : State} (h : step s = .next t) :
    agentSteps (k + 1) s = (if performsStep s then 1 else 0) + agentSteps k t := by
  simp [agentSteps, h]

/-- A transition performs at most one step (R10, R194). -/
theorem agentSteps_le (k : Nat) (s : State) : agentSteps k s ≤ k := by
  induction k generalizing s with
  | zero => simp
  | succ k ih =>
    rw [agentSteps]
    cases h : step s with
    | next t => have := ih t; split <;> simp only <;> omega
    | fault r => split <;> simp
    | refused r => split <;> simp

/-- The counts of two runs one after the other add. -/
theorem RunsTo.agentSteps_add {k l : Nat} {s t : State} (h : RunsTo k s t) :
    agentSteps (k + l) s = agentSteps k s + agentSteps l t := by
  induction k generalizing s with
  | zero =>
    have e : (Host.Outcome.next s : Host.Outcome State Fault Refusal) = .next t := h
    cases e
    simp
  | succ k ih =>
    obtain ⟨v, hv, hr⟩ := h.of_succ
    rw [show k + 1 + l = k + l + 1 by omega, agentSteps_succ hv, agentSteps_succ hv, ih hr]
    omega

end Sys2Proof.Machine
end

