-- ==== Sys2Proof/Tests/Slice0.lean ====
section
/-! SUPPORT. Tests: each one fact about one step, one load or one word, its expected value taken from
spec/95_test_vectors.md (named V and the section) or computed by hand from the rule named; then, for
each statement with hypotheses, a concrete state that meets them (`witness_…`). -/

namespace Sys2Proof.Tests

open Sys2Proof Sys2Proof.Machine

/-! ### Small states -/

/-- A SINGLE run under way in a core of `n` cells. -/
def sgl (n : Nat) (core : Memory) (cp ep : Nat) : State :=
  { State.reset with
    cfg := { RunConfig.default with coreSize := n, maxIter := 10 }
    core := core
    agents := [{ Agent.fresh with cp := cp, ep := ep }] }

/-- An agent alive. -/
def live (cp ep : Nat) : Agent := { Agent.fresh with cp := cp, ep := ep, alive := true }

/-- The configuration of the arena vectors: N = 64, S = 2, M = 4, C = 10, R = 1 (V10 A1). -/
def arenaCfg (programs : List Program) (draws : List Nat) : RunConfig :=
  { RunConfig.default with
    mode := .arena, coreSize := 64, separation := 2, maxLen := 4, cycleLimit := 10, rounds := 1,
    programs := programs, draws := draws }

/-- Two agents in a pass of an arena of 64 cells. -/
def arn (core : Memory) (a b : Agent) : State :=
  { State.reset with
    cfg := arenaCfg [[], []] []
    core := core, agents := [a, b], arenaStatus := .running }

/-- A field of the next state; `none` where there is none. -/
def onNext {α : Type} (f : State → α) (o : Host.Outcome State Fault Refusal) : Option α :=
  match o with
  | .next t => some (f t)
  | .fault _ => none
  | .refused _ => none

/-- CP and EP of the stepping agent. -/
def ptrs (s : State) : Nat × Nat := ((curAgent s).cp, (curAgent s).ep)

/-- EP and halt cause of the stepping agent. -/
def epCause (s : State) : Nat × HaltCause := ((curAgent s).ep, (curAgent s).haltCause)

/-! ### Well-formedness: each check refuses an ill-formed configuration -/

theorem test_wf_core_of_one_cell :
    RunConfig.coreSizeOk { RunConfig.default with coreSize := 1 } = false := by decide

theorem test_wf_single_without_program :
    RunConfig.programCountOk { RunConfig.default with programs := [] } = false := by decide

theorem test_wf_arena_of_one_program :
    RunConfig.programCountOk (arenaCfg [[]] []) = false := by decide

theorem test_wf_core_checked_by_the_whole :
    RunConfig.wellFormed { RunConfig.default with coreSize := 1 } = false := by decide

theorem test_wf_default : RunConfig.wellFormed RunConfig.default = true := by decide

theorem test_wf_instructions : Instr.all.all Instr.wellFormed = true := by decide

/-! ### Decoding: words written out bit by bit from R72 -/

theorem test_decode_halt : decodeTableWord 8 0b0000 = some .halt := by decide
theorem test_decode_next : decodeTableWord 8 0b0001 = some .next := by decide
theorem test_decode_prev : decodeTableWord 8 0b0010 = some .prev := by decide
theorem test_decode_next2 : decodeTableWord 8 0b0011 = some .next2 := by decide
theorem test_decode_prev2 : decodeTableWord 8 0b0100 = some .prev2 := by decide
theorem test_decode_inc : decodeTableWord 8 0b0101 = some .inc := by decide
theorem test_decode_dec : decodeTableWord 8 0b0110 = some .dec := by decide
theorem test_decode_cinc : decodeTableWord 8 0b0111 = some .cinc := by decide
theorem test_decode_cdec : decodeTableWord 8 0b1000 = some .cdec := by decide
theorem test_decode_out : decodeTableWord 8 0b1001 = some .out := by decide
theorem test_decode_in : decodeTableWord 8 0b1010 = some .inp := by decide
theorem test_decode_open : decodeTableWord 8 0b1011 = some .opn := by decide
theorem test_decode_close : decodeTableWord 8 0b1100 = some .close := by decide
theorem test_decode_copen : decodeTableWord 8 0b1101 = some .copen := by decide
theorem test_decode_cclose : decodeTableWord 8 0b1110 = some .cclose := by decide
theorem test_decode_swap : decodeTableWord 8 0b1111 = some .swap := by decide

/-- A sequence without a cell is refused by name. -/
theorem test_decode_no_cell :
    (match decodeCells [] with | .error .noCell => true | .ok _ => false) = true := by decide

/-- Program P1's encoding (V10 P1): four cells 5, 11, 6, 12. -/
theorem test_recognise_p1 :
    encodeAll (recognise ['@', '(', '~', ')']) = [5#4, 11#4, 6#4, 12#4] := by decide

/-- The instruction the host places after reset is the one the next step runs. -/
theorem test_fetch_word_is_run :
    onNext ptrs (step (State.reset.withFetchWord 8 0b0001)) = some (1, 1) := by decide

/-! ### Memory and codec (V2) -/

theorem test_memRead_wraps : memRead (sgl 16 [(1, 9#4)] 0 0) 17 = 9#4 := by decide
theorem test_memWrite_below_zero : (memWrite (sgl 16 [] 0 0) (-1) 15#4).core = [(15, 15#4)] := by
  decide
theorem test_readChar : readChar (sgl 16 [(5, 4#4), (6, 1#4)] 0 0) 6 = 0x41#8 := by decide
theorem test_readChar_at_zero : readChar (sgl 16 [(15, 15#4)] 0 0) 0 = 0xF0#8 := by decide
theorem test_writeChar_at_zero :
    (writeChar (sgl 8 [] 0 0) 0 0x5A#8).core = [(0, 10#4), (7, 5#4)] := by decide
theorem test_writeChar_zero_clears :
    (writeChar (sgl 16 [(2, 7#4), (3, 7#4)] 0 0) 3 0x00#8).core = [] := by decide

/-! ### Pointer family (V3) -/

theorem test_next_wraps : onNext ptrs (exec .next (sgl 16 [] 15 3)) = some (0, 4) := by decide
theorem test_next_ep_wraps : onNext ptrs (exec .next (sgl 16 [] 4 15)) = some (5, 0) := by decide
theorem test_prev_wraps : onNext ptrs (exec .prev (sgl 16 [] 0 7)) = some (15, 8) := by decide
theorem test_prev : onNext ptrs (exec .prev (sgl 16 [] 9 0)) = some (8, 1) := by decide
theorem test_next2_wraps : onNext ptrs (exec .next2 (sgl 16 [] 15 0)) = some (1, 1) := by decide
theorem test_next2_two_cells : onNext ptrs (exec .next2 (sgl 2 [] 1 0)) = some (1, 1) := by decide
theorem test_prev2_wraps : onNext ptrs (exec .prev2 (sgl 8 [] 1 2)) = some (7, 3) := by decide
theorem test_prev2_two_cells : onNext ptrs (exec .prev2 (sgl 2 [] 0 0)) = some (0, 1) := by decide

/-! ### Cell and character arithmetic (V4) -/

theorem test_inc_wraps :
    onNext (fun t => t.core) (exec .inc (sgl 16 [(2, 6#4), (3, 15#4)] 3 0)) = some [(2, 6#4)] := by
  decide
theorem test_inc_own_cell :
    onNext (fun t => (t.core, ptrs t)) (exec .inc (sgl 16 [(3, 5#4)] 3 3)) =
      some ([(3, 6#4)], 3, 4) := by decide
theorem test_dec_wraps :
    onNext (fun t => t.core) (exec .dec (sgl 16 [(2, 6#4)] 3 0)) = some [(2, 6#4), (3, 15#4)] := by
  decide
theorem test_dec : onNext (fun t => t.core) (exec .dec (sgl 16 [(3, 8#4)] 3 0)) = some [(3, 7#4)] := by
  decide
theorem test_cinc_carries :
    onNext (fun t => t.core) (exec .cinc (sgl 16 [(0, 15#4)] 0 0)) = some [(15, 1#4)] := by decide
theorem test_cinc_own_cell :
    onNext (fun t => t.core) (exec .cinc (sgl 16 [(4, 7#4), (5, 15#4)] 5 4)) =
      some [(4, 8#4)] := by decide
theorem test_cdec_borrows :
    onNext (fun t => t.core) (exec .cdec (sgl 16 [(4, 1#4)] 5 0)) = some [(5, 15#4)] := by decide
theorem test_cdec_wraps :
    onNext (fun t => t.core) (exec .cdec (sgl 16 [] 5 0)) = some [(4, 15#4), (5, 15#4)] := by decide

/-! ### Character I/O and swap (V5) -/

theorem test_out :
    onNext (fun t => t.output) (exec .out (sgl 16 [(4, 4#4), (5, 1#4)] 5 0)) = some [0x41#8] := by
  decide
theorem test_out_arena :
    onNext (fun t => (t.output, ptrs t)) (exec .out (arn [(4, 4#4)] (live 5 0) (live 7 0))) =
      some ([], 5, 1) := by decide

/-- A SINGLE state with an input byte sequence. -/
def withInput (bs : List Byte) (s : State) : State := { s with cfg := { s.cfg with input := bs } }

theorem test_in :
    onNext (fun t => (t.core, t.inPos)) (exec .inp (withInput [0x7F#8] (sgl 16 [] 0 3))) =
      some ([(0, 15#4), (15, 7#4)], 1) := by decide
theorem test_in_at_end :
    onNext (fun t => (t.core, t.inPos)) (exec .inp (sgl 16 [(4, 5#4), (5, 5#4)] 5 0)) =
      some ([], 0) := by decide
theorem test_swap :
    onNext (fun t => (t.core, t.buffer))
        (exec .swap { sgl 16 [(4, 3#4), (5, 12#4)] 5 0 with buffer := 0xA5#8 }) =
      some ([(4, 10#4), (5, 5#4)], 0x3C#8) := by decide
theorem test_swap_arena :
    onNext (fun t => (t.core, t.buffer, ptrs t)) (exec .swap (arn [(4, 4#4)] (live 5 0) (live 7 0))) =
      some ([(4, 4#4)], 0x00#8, 5, 1) := by decide

/-! ### Control and resolver (V6) -/

theorem test_halt :
    onNext (fun t => (epCause t, t.runStatus)) (exec .halt (sgl 16 [] 9 5)) =
      some ((5, .haltOp), .halted) := by decide
theorem test_halt_arena :
    onNext (fun t => ((curAgent t).alive, t.runStatus)) (exec .halt (arn [] (live 5 0) (live 7 0))) =
      some (false, .running) := by decide

/-- `([)]` in the cells 0 to 3: a cell-domain jump passes over the other family's codes. -/
theorem test_open_ignores_other_family :
    onNext epCause (exec .opn (sgl 16 [(0, 11#4), (1, 13#4), (2, 12#4), (3, 14#4)] 8 0)) =
      some (3, .none) := by decide
theorem test_open_unmatched :
    onNext epCause (exec .opn (sgl 8 [(0, 11#4)] 4 0)) = some (0, .unmatched) := by decide
/-- `@()` with the data cell 1 (V7): the taken jump lands on the cell after the OPEN. -/
theorem test_close_jumps :
    onNext epCause (exec .close (sgl 16 [(0, 5#4), (1, 11#4), (2, 12#4), (3, 1#4)] 3 2)) =
      some (2, .none) := by decide
/-- L1.5: a lone CLOSE over a nonzero cell halts. -/
theorem test_close_unmatched :
    onNext epCause (exec .close (sgl 16 [(0, 12#4), (1, 3#4)] 1 0)) = some (0, .unmatched) := by
  decide
/-- The character (1, 0) is not 0, so COPEN does not jump. -/
theorem test_copen_reads_the_character :
    onNext epCause (exec .copen (sgl 16 [(0, 13#4), (8, 1#4)] 9 0)) = some (1, .none) := by decide
theorem test_copen_jumps :
    onNext epCause (exec .copen (sgl 16 [(0, 13#4), (1, 11#4), (2, 14#4)] 9 0)) =
      some (3, .none) := by decide
theorem test_cclose_jumps :
    onNext epCause (exec .cclose (sgl 16 [(4, 13#4), (5, 8#4), (6, 14#4), (9, 2#4)] 9 6)) =
      some (5, .none) := by decide
theorem test_cclose_reads_the_character :
    onNext epCause (exec .cclose (sgl 16 [(4, 13#4), (6, 14#4), (8, 1#4)] 9 6)) =
      some (5, .none) := by decide

/-- `(())` in the cells 0 to 3: both directions of the outer pair, and the inner pair. -/
theorem test_resolve_outer_forward :
    resolve (sgl 16 [(0, 11#4), (1, 11#4), (2, 12#4), (3, 12#4)] 8 0) .fwd .cell = some 3 := by decide
theorem test_resolve_outer_backward :
    resolve (sgl 16 [(0, 11#4), (1, 11#4), (2, 12#4), (3, 12#4)] 8 3) .bwd .cell = some 0 := by decide
theorem test_resolve_wraps :
    resolve (sgl 8 [(2, 12#4), (5, 11#4)] 7 5) .fwd .cell = some 2 := by decide

/-! ### Ports (R42, R33, R166) -/

/-- The codes that cross the ports at the end of a run that halted, and of an arena of one cell. -/
theorem test_port_codes :
    (runStatusCode .halted, haltCauseCode .unmatched, arenaStatusCode .configError,
      configErrorCode (some .badCoreSize), modeCode .arena) = (1#2, 2#2, 3#2, 4#3, 1#1) := by decide

/-- P4's last step (V10): the host reads HALTED, EP 1, CP 2, UNMATCHED and ITER 2. -/
theorem test_single_end :
    onNext (fun t => (singleEnd t).map (fun e => (e.status, e.ep, e.cp, e.haltCause, e.iter)))
        (step { sgl 16 [(0, 5#4), (1, 12#4), (2, 1#4)] 2 1 with iter := 1 }) =
      some (some (.halted, 1, 2, .unmatched, 2)) := by decide

/-- One transition of a pass performs one step, a round's end none. -/
theorem test_agentSteps :
    (agentSteps 1 (arn [(20, 1#4)] (live 1 0) (live 23 20)),
      agentSteps 1 (arn [] { live 1 0 with alive := false } (live 24 21))) = (1, 0) := by decide

/-! ### Controllers and loader (V8, V9) -/

/-- A program whose load wraps: N = 4, five symbols; the fifth overwrites cell 0. -/
theorem test_load_wraps :
    load 4 ['@', '@', '@', '@', Char.ofNat 0x7D] [] 0 =
      { core := [(0, 1#4), (1, 5#4), (2, 5#4), (3, 5#4)], cursor := 1, len := 5 } := by decide

/-- Every other character is ignored. -/
theorem test_load_ignores :
    load 16 ['a', '@', ' ', 'b', '(', '\n', '~', ')'] [] 0 =
      { core := [(0, 5#4), (1, 11#4), (2, 6#4), (3, 12#4)], cursor := 4, len := 4 } := by decide

theorem test_boot :
    onNext ptrs (step (hostConfigure { RunConfig.default with programs := [['@', '(']] })) =
      some (2, 0) := by decide

theorem test_budget_zero :
    onNext (fun t => (t.runStatus, t.iter))
        (step (hostConfigure { RunConfig.default with programs := [['@']], maxIter := 0 })) =
      some (.running, 0) ∧
    onNext (fun t => (t.runStatus, t.iter))
        (step { sgl 16 [(0, 5#4)] 1 0 with cfg := { RunConfig.default with maxIter := 0 } }) =
      some (.stopped, 0) := by decide

/-- The placed arena of 14 cells (V9): S = 1, M = 2, three programs, draws as given. -/
def cfg14 (draws : List Nat) : RunConfig :=
  { arenaCfg [['>'], ['>'], ['>']] draws with coreSize := 14, separation := 1, maxLen := 2 }

/-- The round start of that arena. -/
def arena14 (draws : List Nat) : State :=
  { State.reset with
    cfg := cfg14 draws, agents := [Agent.fresh, Agent.fresh, Agent.fresh], arenaStatus := .running,
    phase := .loading }

/-- The set to draw from after start 4 is 8, 9, 10. -/
theorem test_unreserved_after_four :
    unreserved 14 (exclusion (cfg14 []) 0 ++ exclusion (cfg14 []) 4) = [8, 9, 10] := by decide

/-- The first set is 4 … 10, so answer 0 draws 4, and answer 1 then draws 9. -/
theorem test_place :
    onNext (fun t => (t.agents.map (fun a => a.start), t.core)) (step (arena14 [0, 1])) =
      some ([0, 4, 9], [(0, 3#4), (4, 3#4), (9, 3#4)]) := by decide

/-- Start 7 leaves agent 2 no offset. -/
theorem test_place_impossible :
    onNext (fun t => (t.arenaStatus, t.configError)) (step (arena14 [3])) =
      some (.configError, some .placementImpossible) := by decide

theorem test_turn_order : (List.range 3).map (turnOrder 3 2) = [2, 0, 1] := by decide

theorem test_award :
    [award 2 1, award 2 2, award 3 1, award 3 2, award 3 3, award 4 2, award 4 3, award 4 4] =
      [3, 1, 8, 4, 2, 7, 5, 3] := by decide

/-- A1's first turn: agent 0 fetches 0 and dies; TURN moves on. -/
theorem test_arena_turn :
    onNext (fun t => (t.agents.map (fun a => a.alive), t.turn, t.cycle))
        (step (arn [(20, 1#4)] (live 1 0) (live 23 20))) = some ([false, true], 1, 0) := by decide

/-- A1's second turn: agent 1 moves, and the pass ends. -/
theorem test_arena_last_turn :
    onNext (fun t => (t.agents.map (fun a => (a.cp, a.ep)), t.turn, t.cycle))
        (step { arn [(20, 1#4)] { live 1 0 with alive := false } (live 23 20) with turn := 1 }) =
      some ([(1, 0), (24, 21)], 0, 1) := by decide

/-- A1's round end: agent 1 alone is awarded 3, and the arena is done. -/
theorem test_arena_score :
    onNext scoreVector (step (arn [] { live 1 0 with alive := false } (live 24 21))) =
      some (some [0, 3]) := by decide

/-! ### Witnesses: states that meet the hypotheses of the statements, clause by clause -/

/-- Entry of agent 0 in `sgl`. -/
def ent (cp ep : Nat) : Agent := { Agent.fresh with cp := cp, ep := ep }

/-- The smallest core, both pointers at its last cell: the state the register-only statements meet. -/
theorem witness_smallest_core :
    2 ≤ (sgl 2 [] 1 1).cfg.coreSize ∧ (sgl 2 [] 1 1).cfg.mode = .single ∧
      (sgl 2 [] 1 1).agents[cur (sgl 2 [] 1 1)]? = some (ent 1 1) ∧
      (ent 1 1).cp < (sgl 2 [] 1 1).cfg.coreSize := by decide

theorem witness_ListingALoadReproducesTheText :
    0 < 2 ∧ programLength ['@', 'x', '~'] ≤ 2 := by decide

theorem witness_CanonicalCoresThatReadAlikeAreEqual :
    ∃ m : Memory, Memory.wf m ∧ (∀ a, m.get a = m.get a) ∧ (0 : Nat) ≠ 1 ∧ m ≠ [] :=
  ⟨[(0, 3#4)], by decide, fun _ => rfl, by decide, by decide⟩

theorem witness_WriteChangesExactlyOneCell :
    0 < (sgl 1 [] 0 0).cfg.coreSize ∧ ((-1 : Int) % 16 = 15 % 16) ∧ ((0 : Int) % 16 ≠ 15 % 16) := by
  decide

theorem witness_CharacterIsTwoAdjacentCells : 2 ≤ (sgl 2 [] 0 0).cfg.coreSize := by decide

theorem witness_CodecRoundTrips : 2 ≤ (sgl 2 [] 0 0).cfg.coreSize := by decide

theorem witness_NextMovesCellPointerForwardByOne :
    (sgl 16 [] 15 3).agents[cur (sgl 16 [] 15 3)]? = some (ent 15 3) := by decide

theorem witness_PrevMovesCellPointerBackByOne :
    2 ≤ (sgl 2 [] 0 1).cfg.coreSize ∧ (sgl 2 [] 0 1).agents[cur (sgl 2 [] 0 1)]? = some (ent 0 1) := by
  decide

theorem witness_Next2MovesCellPointerForwardByTwo :
    (sgl 16 [] 14 0).agents[cur (sgl 16 [] 14 0)]? = some (ent 14 0) := by decide

theorem witness_Prev2MovesCellPointerBackByTwo :
    2 ≤ (sgl 2 [] 0 0).cfg.coreSize ∧ (sgl 2 [] 0 0).agents[cur (sgl 2 [] 0 0)]? = some (ent 0 0) := by
  decide

theorem witness_PointerMovesObeyTheFamilyLaws :
    2 ≤ (sgl 2 [] 1 0).cfg.coreSize ∧ (sgl 2 [] 1 0).agents[cur (sgl 2 [] 1 0)]? = some (ent 1 0) ∧
      (ent 1 0).cp < (sgl 2 [] 1 0).cfg.coreSize := by decide

theorem witness_IncAddsOneToTheCellModSixteen :
    (sgl 16 [(3, 15#4)] 3 0).agents[cur (sgl 16 [(3, 15#4)] 3 0)]? = some (ent 3 0) := by decide

theorem witness_DecTakesOneFromTheCellModSixteen :
    (sgl 16 [] 3 0).agents[cur (sgl 16 [] 3 0)]? = some (ent 3 0) := by decide

theorem witness_CincAddsOneToTheCharacterMod256 :
    2 ≤ (sgl 2 [(0, 15#4), (1, 15#4)] 0 0).cfg.coreSize ∧
      (sgl 2 [(0, 15#4), (1, 15#4)] 0 0).agents[cur (sgl 2 [(0, 15#4), (1, 15#4)] 0 0)]? =
        some (ent 0 0) := by decide

theorem witness_CdecTakesOneFromTheCharacterMod256 :
    2 ≤ (sgl 2 [] 0 0).cfg.coreSize ∧ (sgl 2 [] 0 0).agents[cur (sgl 2 [] 0 0)]? = some (ent 0 0) := by
  decide

/-- The last clause at both values of its condition: the cell at CP 15, and not 15. -/
theorem witness_ArithmeticObeysTheFamilyLaws :
    (∃ s a, 2 ≤ s.cfg.coreSize ∧ s.agents[cur s]? = some a ∧ memRead s a.cp = 15#4) ∧
    (∃ s a, 2 ≤ s.cfg.coreSize ∧ s.agents[cur s]? = some a ∧ memRead s a.cp ≠ 15#4) :=
  ⟨⟨sgl 2 [(0, 15#4)] 0 0, ent 0 0, by decide⟩, ⟨sgl 2 [] 0 0, ent 0 0, by decide⟩⟩

theorem witness_OutEmitsTheCharacterAtCP :
    (∃ s a, s.agents[cur s]? = some a ∧ s.cfg.mode = .single) ∧
    (∃ s a, s.agents[cur s]? = some a ∧ s.cfg.mode = .arena) :=
  ⟨⟨sgl 16 [] 0 0, ent 0 0, by decide⟩, ⟨arn [] (live 5 0) (live 7 0), live 5 0, by decide⟩⟩

/-- The last byte of the input, the end of the input, and ARENA mode. -/
theorem witness_InStoresTheNextByteOrZero :
    (∃ s a, s.agents[cur s]? = some a ∧ 2 ≤ s.cfg.coreSize ∧ s.cfg.mode = .single ∧
      s.cfg.input[s.inPos]? = some 0x41#8) ∧
    (∃ s a, s.agents[cur s]? = some a ∧ 2 ≤ s.cfg.coreSize ∧ s.cfg.mode = .single ∧
      s.cfg.input[s.inPos]? = none) ∧
    (∃ s a, s.agents[cur s]? = some a ∧ s.cfg.mode = .arena) :=
  ⟨⟨withInput [0x41#8] (sgl 2 [] 0 0), ent 0 0, by decide⟩,
    ⟨{ withInput [0x41#8] (sgl 2 [] 0 0) with inPos := 1 }, ent 0 0, by decide⟩,
    ⟨arn [] (live 5 0) (live 7 0), live 5 0, by decide⟩⟩

theorem witness_SwapExchangesWithBufferAndArenaIoIsANoOp :
    (∃ s a, s.agents[cur s]? = some a ∧ 2 ≤ s.cfg.coreSize ∧ s.cfg.mode = .single) ∧
    (∃ s a, s.agents[cur s]? = some a ∧ s.cfg.mode = .arena) :=
  ⟨⟨sgl 2 [] 0 0, ent 0 0, by decide⟩, ⟨arn [] (live 5 0) (live 7 0), live 5 0, by decide⟩⟩

/-- Each clause about a run: HALTED, STOPPED, RUNNING, and ARENA mode. -/
theorem witness_HostReadsThePortCodesAndTheEndOfASingleRun :
    (∃ s : State, s.cfg.mode = .single ∧ s.runStatus ≠ .running ∧ s.agents[0]? = some (ent 1 0) ∧
      s.runStatus = .halted) ∧
    (∃ s : State, s.cfg.mode = .single ∧ s.runStatus ≠ .running ∧ s.agents[0]? = some (ent 1 0) ∧
      s.runStatus = .stopped) ∧
    (∃ s : State, s.cfg.mode = .single ∧ s.runStatus = .running) ∧
    (∃ s : State, s.cfg.mode = .arena) :=
  ⟨⟨{ sgl 2 [] 1 0 with runStatus := .halted }, by decide⟩,
    ⟨{ sgl 2 [] 1 0 with runStatus := .stopped }, by decide⟩,
    ⟨sgl 2 [] 1 0, by decide⟩, ⟨arn [] (live 5 0) (live 7 0), rfl⟩⟩

/-- In both modes. -/
theorem witness_HaltOpcodeHaltsTheAgent :
    (∃ s a, s.cfg.mode = .single ∧ s.agents[cur s]? = some a) ∧
    (∃ s a, s.cfg.mode = .arena ∧ s.agents[cur s]? = some a) :=
  ⟨⟨sgl 16 [] 9 5, ent 9 5, by decide⟩, ⟨arn [] (live 5 0) (live 7 0), live 5 0, by decide⟩⟩

/-- Not taken, taken with a match, taken without one. -/
theorem witness_OpenJumpsForwardOnZeroCell :
    (∃ s a, s.agents[cur s]? = some a ∧ memRead s a.cp ≠ 0#4) ∧
    (∃ s a, s.agents[cur s]? = some a ∧ memRead s a.cp = 0#4 ∧ resolve s .fwd .cell = some 1) ∧
    (∃ s a, s.agents[cur s]? = some a ∧ memRead s a.cp = 0#4 ∧ resolve s .fwd .cell = none) :=
  ⟨⟨sgl 2 [(0, 11#4)] 0 0, ent 0 0, by decide⟩,
    ⟨sgl 3 [(0, 11#4), (1, 12#4)] 2 0, ent 2 0, by decide⟩,
    ⟨sgl 2 [(0, 11#4)] 1 0, ent 1 0, by decide⟩⟩

theorem witness_CloseJumpsBackOnNonzeroCell :
    (∃ s a, s.agents[cur s]? = some a ∧ memRead s a.cp = 0#4) ∧
    (∃ s a, s.agents[cur s]? = some a ∧ memRead s a.cp ≠ 0#4 ∧ resolve s .bwd .cell = some 1) ∧
    (∃ s a, s.agents[cur s]? = some a ∧ memRead s a.cp ≠ 0#4 ∧ resolve s .bwd .cell = none) :=
  ⟨⟨sgl 2 [(0, 12#4)] 1 0, ent 1 0, by decide⟩,
    ⟨sgl 2 [(0, 12#4), (1, 11#4)] 0 0, ent 0 0, by decide⟩,
    ⟨sgl 2 [(0, 12#4)] 0 0, ent 0 0, by decide⟩⟩

theorem witness_CopenJumpsForwardOnZeroCharacter :
    (∃ s a, s.agents[cur s]? = some a ∧ readChar s a.cp ≠ 0#8) ∧
    (∃ s a, s.agents[cur s]? = some a ∧ readChar s a.cp = 0#8 ∧ resolve s .fwd .char = some 1) ∧
    (∃ s a, s.agents[cur s]? = some a ∧ readChar s a.cp = 0#8 ∧ resolve s .fwd .char = none) :=
  ⟨⟨sgl 2 [(0, 13#4)] 1 0, ent 1 0, by decide⟩,
    ⟨sgl 4 [(0, 13#4), (1, 14#4)] 3 0, ent 3 0, by decide⟩,
    ⟨sgl 3 [(0, 13#4)] 2 0, ent 2 0, by decide⟩⟩

theorem witness_CcloseJumpsBackOnNonzeroCharacter :
    (∃ s a, s.agents[cur s]? = some a ∧ readChar s a.cp = 0#8) ∧
    (∃ s a, s.agents[cur s]? = some a ∧ readChar s a.cp ≠ 0#8 ∧ resolve s .bwd .char = some 1) ∧
    (∃ s a, s.agents[cur s]? = some a ∧ readChar s a.cp ≠ 0#8 ∧ resolve s .bwd .char = none) :=
  ⟨⟨sgl 3 [(0, 14#4)] 2 0, ent 2 0, by decide⟩,
    ⟨sgl 2 [(0, 14#4), (1, 13#4)] 0 0, ent 0 0, by decide⟩,
    ⟨sgl 2 [(0, 14#4)] 0 0, ent 0 0, by decide⟩⟩

/-- `()` over the end of the core: the start is the last address, the match address 0. -/
def acrossTheEnd : State := sgl 8 [(0, 12#4), (7, 11#4)] 3 7

theorem witness_ResolverFindsTheFirstBalancedCell :
    (curAgent acrossTheEnd).ep < acrossTheEnd.cfg.coreSize ∧
      resolve acrossTheEnd .fwd .cell = some 0 := by decide

theorem witness_ResolverDepthAndAnswerStayInBounds :
    (curAgent acrossTheEnd).ep < acrossTheEnd.cfg.coreSize ∧ 7 < acrossTheEnd.cfg.coreSize ∧
      resolve acrossTheEnd .fwd .cell = some 0 := by decide

theorem witness_ForwardMatchIsFoundBackAgain :
    acrossTheEnd.agents[cur acrossTheEnd]? = some (ent 3 7) ∧
      (ent 3 7).ep < acrossTheEnd.cfg.coreSize ∧
      memRead acrossTheEnd (ent 3 7).ep = openCode .cell ∧
      resolve acrossTheEnd .fwd .cell = some 0 := by decide

/-- Two different cores with the same cell-domain brackets. -/
theorem witness_ResolverSeesOnlyItsFamily :
    ∃ (s : State) (m : Memory), s.core ≠ m ∧
      ∀ a, (s.core.get a = openCode .cell ↔ m.get a = openCode .cell) ∧
        (s.core.get a = closeCode .cell ↔ m.get a = closeCode .cell) := by
  refine ⟨sgl 16 [(0, 11#4), (1, 12#4)] 8 0, [(0, 11#4), (1, 12#4), (2, 13#4)], by decide, ?_⟩
  intro a
  simp only [sgl, Memory.get, openCode, closeCode]
  split_ifs <;> decide

/-- A step and an agent that does not take it; two tables that differ in that agent and in length. -/
theorem witness_StepTouchesNoOtherAgent :
    (∃ t, exec .inc (arn [] (live 5 0) (live 7 0)) = .next t ∧
      (1 : Nat) ≠ cur (arn [] (live 5 0) (live 7 0))) ∧
    (∃ (s : State) (a : Agent) (others : List Agent), s.agents[cur s]? = some a ∧
      others[cur s]? = some a ∧ others[1]? ≠ s.agents[1]? ∧ others.length ≠ s.agents.length) :=
  ⟨⟨_, rfl, by decide⟩,
    ⟨arn [] (live 5 0) (live 7 0), live 5 0, [live 5 0, ent 9 9, ent 0 0], by decide⟩⟩

/-- A halt by the opcode in SINGLE mode, and one by an unmatched bracket in ARENA mode. -/
theorem witness_HaltingStepsKeepEverythingElse :
    (∃ s t a b, s.cfg.mode = .single ∧ exec .halt s = .next t ∧ s.agents[cur s]? = some a ∧
      t.agents[cur s]? = some b ∧ a.haltCause = .none ∧ b.haltCause ≠ .none) ∧
    (∃ s t a b, s.cfg.mode = .arena ∧ exec .opn s = .next t ∧ s.agents[cur s]? = some a ∧
      t.agents[cur s]? = some b ∧ a.haltCause = .none ∧ b.haltCause ≠ .none) :=
  ⟨⟨sgl 2 [] 0 0, _, ent 0 0, { ent 0 0 with haltCause := .haltOp }, rfl, rfl, rfl, rfl, rfl,
      by decide⟩,
    ⟨arn [(0, 11#4)] (live 5 0) (live 7 0), _, live 5 0,
      { live 5 0 with haltCause := .unmatched, alive := false }, rfl, rfl, rfl, rfl, rfl,
      by decide⟩⟩

/-- An instruction that writes cells, and one that does not. -/
theorem witness_StepWritesAtMostTheCharacterAtCP :
    (∃ t, exec .cinc (sgl 2 [] 0 0) = .next t) ∧
    (∃ t, exec .out (sgl 2 [] 0 0) = .next t ∧
      Instr.out ∉ [Instr.inc, .dec, .cinc, .cdec, .inp, .swap]) :=
  ⟨⟨_, rfl⟩, ⟨_, rfl, by decide⟩⟩

theorem witness_InstructionsKeepScoresStartsAndLengths :
    ∃ t, exec .swap (sgl 2 [] 0 0) = .next t ∧ Instr.swap ≠ .out ∧ Instr.swap ≠ .inp :=
  ⟨_, rfl, by decide, by decide⟩

/-- The last step of the budget. -/
theorem witness_SingleTransitionRunsTheFetchedInstruction :
    ∃ (s : State) (a : Agent), s.cfg.mode = .single ∧ 2 ≤ s.cfg.coreSize ∧ s.phase = .running ∧
      s.runStatus = .running ∧ s.iter < s.cfg.maxIter ∧ s.agents[0]? = some a ∧
      decode (memRead s a.ep) = .inc ∧ Instr.inc.wellFormed = true :=
  ⟨{ sgl 2 [(1, 5#4)] 0 1 with iter := 9 }, ent 0 1, by decide⟩

/-- The first turn of a pass, and the last. -/
theorem witness_ArenaTransitionRunsTheFetchedInstruction :
    (∃ (s : State) (a : Agent), s.cfg.mode = .arena ∧ s.arenaStatus = .running ∧
      s.phase = .running ∧ s.agents[(s.round + s.turn) % s.cfg.programs.length]? = some a ∧
      a.alive = true ∧
      (s.turn = 0 → s.cycle < s.cfg.cycleLimit ∧ 1 < s.agents.countP (fun b => b.alive)) ∧
      decode (memRead s a.ep) = .inc ∧ Instr.inc.wellFormed = true ∧
      s.turn + 1 < s.cfg.programs.length) ∧
    (∃ (s : State) (a : Agent), s.cfg.mode = .arena ∧ s.arenaStatus = .running ∧
      s.phase = .running ∧ s.agents[(s.round + s.turn) % s.cfg.programs.length]? = some a ∧
      a.alive = true ∧
      (s.turn = 0 → s.cycle < s.cfg.cycleLimit ∧ 1 < s.agents.countP (fun b => b.alive)) ∧
      decode (memRead s a.ep) = .halt ∧ Instr.halt.wellFormed = true ∧
      s.cfg.programs.length ≤ s.turn + 1) :=
  ⟨⟨{ arn [(63, 5#4)] (live 0 63) (live 7 0) with cycle := 9 }, live 0 63, by decide⟩,
    ⟨{ arn [] (live 0 63) (live 7 0) with turn := 1 }, live 7 0, by decide⟩⟩

/-- A dead agent at the first turn of a pass of three, and at the last turn. -/
theorem witness_DeadAgentsAreSkipped :
    (∃ (s : State) (a : Agent), s.cfg.mode = .arena ∧ s.arenaStatus = .running ∧
      s.phase = .running ∧ s.agents[cur s]? = some a ∧ a.alive = false ∧
      (s.turn = 0 → s.cycle < s.cfg.cycleLimit ∧ 1 < s.agents.countP (fun b => b.alive)) ∧
      s.turn + 1 < s.cfg.programs.length) ∧
    (∃ (s : State) (a : Agent), s.cfg.mode = .arena ∧ s.arenaStatus = .running ∧
      s.phase = .running ∧ s.agents[cur s]? = some a ∧ a.alive = false ∧
      (s.turn = 0 → s.cycle < s.cfg.cycleLimit ∧ 1 < s.agents.countP (fun b => b.alive)) ∧
      s.cfg.programs.length ≤ s.turn + 1) :=
  ⟨⟨{ State.reset with
        cfg := arenaCfg [[], [], []] [], agents := [ent 0 0, live 0 0, live 0 0],
        arenaStatus := .running }, ent 0 0, by decide⟩,
    ⟨{ arn [] (live 0 0) (ent 0 0) with turn := 1 }, ent 0 0, by decide⟩⟩

theorem witness_ExhaustedBudgetStopsTheRun :
    ∃ s : State, s.cfg.mode = .single ∧ 2 ≤ s.cfg.coreSize ∧ s.phase = .running ∧
      s.runStatus = .running ∧ s.cfg.maxIter ≤ s.iter :=
  ⟨{ sgl 2 [] 0 0 with iter := 10 }, by decide⟩

/-- Each of the four ends, the last in an arena of one cell (BAD_CORE_SIZE). -/
theorem witness_EndedRunsHaveNoStep :
    (∃ s : State, (s.cfg.mode = .single → 2 ≤ s.cfg.coreSize) ∧ Finished s ∧
      s.runStatus = .halted ∧ s.cfg.mode = .single) ∧
    (∃ s : State, (s.cfg.mode = .single → 2 ≤ s.cfg.coreSize) ∧ Finished s ∧
      s.runStatus = .stopped ∧ s.cfg.mode = .single) ∧
    (∃ s : State, (s.cfg.mode = .single → 2 ≤ s.cfg.coreSize) ∧ Finished s ∧
      s.arenaStatus = .done ∧ s.cfg.mode = .arena) ∧
    (∃ s : State, (s.cfg.mode = .single → 2 ≤ s.cfg.coreSize) ∧ Finished s ∧
      s.arenaStatus = .configError ∧ s.cfg.mode = .arena ∧ s.cfg.coreSize < 2) :=
  ⟨⟨{ sgl 2 [] 0 0 with runStatus := .halted }, by decide, ⟨rfl, by decide⟩, rfl, rfl⟩,
    ⟨{ sgl 2 [] 0 0 with runStatus := .stopped }, by decide, ⟨rfl, by decide⟩, rfl, rfl⟩,
    ⟨{ arn [] (live 0 0) (live 0 0) with arenaStatus := .done }, by decide, .inl rfl, rfl, rfl⟩,
    ⟨{ hostConfigure { arenaCfg [[], []] [] with coreSize := 1 } with arenaStatus := .configError },
      by decide, .inr rfl, rfl, rfl, by decide⟩⟩

/-- One transition of each mode. -/
theorem witness_ConfigurationIsNeverWritten :
    (∃ t, step (sgl 2 [(0, 5#4)] 0 0) = .next t) ∧ (∃ t, step (arena14 [0, 1]) = .next t) :=
  ⟨⟨_, rfl⟩, ⟨_, rfl⟩⟩

/-- A SINGLE run under way meets the invariant and has a next state. -/
theorem witness_EveryTransitionKeepsTheInvariant :
    ∃ t, State.Inv (sgl 2 [(1, 5#4)] 0 1) ∧ step (sgl 2 [(1, 5#4)] 0 1) = .next t := by
  refine ⟨_, ⟨by decide, by decide, by decide, ?_, ?_, fun h => ?_⟩, rfl⟩
  · intro a ha
    simp [sgl] at ha
    subst ha
    simp [Agent.InCore, sgl, RunConfig.default, Agent.fresh]
  · intro _
    refine ⟨by decide, by decide, fun _ => rfl, fun _ a ha => ?_⟩
    simp [sgl] at ha
    subst ha
    simp [sgl, State.reset, Agent.fresh]
  · cases h

/-- A load that wraps and overwrites its own first cell; an address inside it, none outside; and an
address outside a shorter one. -/
theorem witness_LoaderWritesTheSymbolsAndNothingElse :
    3 < 4 ∧ (recognise ['@', '~', '@', '@', '>']).length = 5 ∧
      OutsideLoad 4 3 (recognise ['@', '~']).length 1 :=
  ⟨by decide, by decide, by unfold OutsideLoad; decide⟩

theorem witness_SingleRunStartLoadsTheProgram :
    ∃ (s : State) (p : Program), s.cfg.mode = .single ∧ 2 ≤ s.cfg.coreSize ∧ s.phase = .loading ∧
      s.cfg.programs = [p] ∧ programLength p = 5 ∧ s.cfg.coreSize = 4 :=
  ⟨hostConfigure { RunConfig.default with
      coreSize := 4, programs := [['@', '~', '@', '@', '>']] }, _, by decide, by decide, rfl, rfl,
    by decide, rfl⟩

theorem witness_EmptyProgramHaltsInItsFirstStep :
    ∃ (c : RunConfig) (p : Program), c.mode = .single ∧ 2 ≤ c.coreSize ∧ 0 < c.maxIter ∧
      c.programs = [p] ∧ programLength p = 0 ∧ p ≠ [] :=
  ⟨{ RunConfig.default with coreSize := 2, maxIter := 1, programs := [['a', ' ']] }, ['a', ' '],
    by decide⟩

/-- The whole budget left, and none. -/
theorem witness_SingleRunsEndWithinTheBudget :
    (∃ s : State, s.cfg.mode = .single ∧ 2 ≤ s.cfg.coreSize ∧ s.phase = .running ∧
      s.runStatus = .running ∧ s.iter ≤ s.cfg.maxIter ∧ s.iter = 0) ∧
    (∃ s : State, s.cfg.mode = .single ∧ 2 ≤ s.cfg.coreSize ∧ s.phase = .running ∧
      s.runStatus = .running ∧ s.iter ≤ s.cfg.maxIter ∧ s.iter = s.cfg.maxIter) :=
  ⟨⟨sgl 2 [] 0 0, by decide⟩, ⟨{ sgl 2 [] 0 0 with iter := 10 }, by decide⟩⟩

/-- Each of the four clauses at its boundary: N = 1; one program; a program of M + 1 symbols; and
programs of exactly M symbols. -/
theorem witness_ArenaStartConstructsAndChecks :
    (∃ c : RunConfig, c.mode = .arena ∧ (hostConfigure c).arenaStatus = .idle ∧ c.coreSize < 2) ∧
    (∃ c : RunConfig, c.mode = .arena ∧ (hostConfigure c).arenaStatus = .idle ∧ 2 ≤ c.coreSize ∧
      c.programs.length < 2) ∧
    (∃ c : RunConfig, c.mode = .arena ∧ (hostConfigure c).arenaStatus = .idle ∧ 2 ≤ c.coreSize ∧
      2 ≤ c.programs.length ∧ ∃ p ∈ c.programs, c.maxLen < programLength p) ∧
    (∃ c : RunConfig, c.mode = .arena ∧ (hostConfigure c).arenaStatus = .idle ∧ 2 ≤ c.coreSize ∧
      2 ≤ c.programs.length ∧ ∀ p ∈ c.programs, programLength p ≤ c.maxLen) :=
  ⟨⟨{ arenaCfg [[], []] [] with coreSize := 1 }, by decide⟩,
    ⟨{ arenaCfg [[]] [] with coreSize := 2 }, by decide⟩,
    ⟨arenaCfg [['>', '>', '>', '>', '>'], ['>']] [], by decide⟩,
    ⟨arenaCfg [['>', 'a', '>', '>', '>'], ['>']] [], by decide⟩⟩

/-- A window of 13 addresses in a core of 13, the whole core, and one of 13 in a core of 14. -/
theorem witness_ExclusionWindowWrapsBothEndsIncluded :
    (∃ c : RunConfig, 0 < c.coreSize ∧ 12 < c.coreSize ∧
      c.coreSize ≤ 2 * (c.separation + c.maxLen) + 1) ∧
    (∃ c : RunConfig, 0 < c.coreSize ∧ ¬ c.coreSize ≤ 2 * (c.separation + c.maxLen) + 1) :=
  ⟨⟨{ arenaCfg [] [] with coreSize := 13 }, by decide⟩,
    ⟨{ arenaCfg [] [] with coreSize := 14 }, by decide⟩⟩

theorem witness_DrawMayAnswerAnyMember : ([7] : List Nat) ≠ [] ∧ 7 ∈ [7] := by decide

/-- The tightest three starts of V9's core of 14, in the second round, after the two draws of the
first. -/
theorem witness_EveryAllowedPlacementCanHappen :
    ∃ (s : State) (starts given : List Nat), s.cfg.mode = .arena ∧ 0 < s.cfg.programs.length ∧
      s.agents.length = s.cfg.programs.length ∧ starts.length = s.cfg.programs.length ∧
      given.length = s.drawPos ∧ starts[0]? = some 0 ∧ (∀ a ∈ starts, a < s.cfg.coreSize) ∧
      starts.Pairwise (fun x y => y ∉ exclusion s.cfg x) ∧ s.drawPos = 2 :=
  ⟨{ arena14 [] with round := 1, drawPos := 2 }, [0, 4, 10], [0, 1], by decide⟩

theorem witness_PlacementSeparatesThePrograms :
    ∃ (s t : State) (a b : Agent), s.cfg.mode = .arena ∧ s.arenaStatus = .running ∧
      s.phase = .loading ∧ s.round < s.cfg.rounds ∧ 2 ≤ s.cfg.coreSize ∧
      s.agents.length = s.cfg.programs.length ∧ 0 < s.cfg.programs.length ∧
      (∀ p ∈ s.cfg.programs, programLength p ≤ s.cfg.maxLen) ∧ step s = .next t ∧
      t.arenaStatus = .running ∧ t.agents[0]? = some a ∧ t.agents[1]? = some b ∧ b.start = 4 :=
  ⟨arena14 [0, 2], _, _, _, rfl, rfl, rfl, by decide, by decide, rfl, by decide, by decide, rfl, rfl,
    rfl, rfl, rfl⟩

theorem witness_RoundStartLoadsEveryProgramWhole :
    ∃ (s t : State), s.cfg.mode = .arena ∧ s.arenaStatus = .running ∧
      s.phase = .loading ∧ s.round < s.cfg.rounds ∧ 2 ≤ s.cfg.coreSize ∧
      s.agents.length = s.cfg.programs.length ∧ 2 ≤ s.cfg.programs.length ∧
      (∀ p ∈ s.cfg.programs, programLength p ≤ s.cfg.maxLen) ∧ step s = .next t ∧
      t.arenaStatus = .running ∧ (recognise ['>'])[0]? = some .next2 :=
  ⟨arena14 [6, 0], _, rfl, rfl, rfl, by decide, by decide, rfl, by decide, by decide, rfl, rfl,
    by decide⟩

/-- The anchor's window the whole core, exactly; and a placement that fails at a later agent. -/
theorem witness_ImpossiblePlacementEndsTheArena :
    (∃ s : State, s.cfg.mode = .arena ∧ s.arenaStatus = .running ∧ s.phase = .loading ∧
      s.round < s.cfg.rounds ∧ 2 ≤ s.cfg.programs.length ∧
      s.cfg.coreSize ≤ 2 * (s.cfg.separation + s.cfg.maxLen) + 1) ∧
    (∃ s : State, s.cfg.mode = .arena ∧ s.arenaStatus = .running ∧ s.phase = .loading ∧
      s.round < s.cfg.rounds ∧ 2 ≤ s.cfg.programs.length ∧
      ¬ s.cfg.coreSize ≤ 2 * (s.cfg.separation + s.cfg.maxLen) + 1) :=
  ⟨⟨{ arena14 [] with cfg := { cfg14 [] with coreSize := 7 } }, by decide⟩,
    ⟨arena14 [3], by decide⟩⟩

theorem witness_PassOffersEachAgentOneTurnInOrder :
    ∃ s : State, s.cfg.mode = .arena ∧ s.arenaStatus = .running ∧ s.phase = .running ∧ s.turn = 0 ∧
      s.cycle < s.cfg.cycleLimit ∧ 1 < s.agents.countP (fun b => b.alive) ∧
      s.agents.length = s.cfg.programs.length ∧ 1 < s.cfg.programs.length ∧ s.round = 1 :=
  ⟨{ arn [] (live 5 0) (live 7 63) with round := 1, cycle := 9 }, by decide⟩

theorem witness_DeadAgentsStayAsTheyDied :
    ∃ (s t : State) (a : Agent), s.cfg.mode = .arena ∧ s.arenaStatus = .running ∧
      s.phase = .running ∧ s.agents[1]? = some a ∧ a.alive = false ∧ step s = .next t :=
  ⟨{ arn [] (live 0 0) (ent 0 0) with turn := 1 }, _, ent 0 0, rfl, rfl, rfl, rfl, rfl, rfl⟩

/-- The cycle limit reached with both agents alive and another round to come, and one survivor at the
end of the last round. -/
theorem witness_RoundEndAwardsTheSurvivors :
    (∃ s : State, s.cfg.mode = .arena ∧ s.arenaStatus = .running ∧ s.phase = .running ∧ s.turn = 0 ∧
      s.cfg.cycleLimit ≤ s.cycle ∧ s.round + 1 < s.cfg.rounds) ∧
    (∃ s : State, s.cfg.mode = .arena ∧ s.arenaStatus = .running ∧ s.phase = .running ∧ s.turn = 0 ∧
      s.agents.countP (fun b => b.alive) ≤ 1 ∧ s.cfg.rounds ≤ s.round + 1) :=
  ⟨⟨{ arn [] (live 0 0) (live 0 0) with
        cycle := 10, cfg := { arenaCfg [[], []] [] with rounds := 2 } }, by decide⟩,
    ⟨arn [] (live 0 0) (ent 0 0), by decide⟩⟩

theorem witness_ArenaRunsEnd :
    (hostConfigure (arenaCfg [[], []] [])).cfg.mode = .arena ∧
      (hostConfigure (arenaCfg [[], []] [])).arenaStatus = .idle := by decide

end Sys2Proof.Tests
end

section
/-! PROOFS. The state (spec/10_state.md): canonical cores, what the host reads, the reset state, the
configuration, and the invariant every transition keeps. -/

namespace Sys2Proof.Machine

/-! ### The canonical form determines the core -/

/-- In a canonical core the entries are the addresses that do not read 0, with what they read. -/
theorem Memory.mem_iff_get {m : Memory} (hw : Memory.wf m) (a : Nat) (v : Nibble) :
    (a, v) ∈ m ↔ m.get a = v ∧ v ≠ 0#4 := by
  constructor
  · intro hc
    exact ⟨Memory.get_of_mem hw.1 hc, hw.2 _ hc⟩
  · rintro ⟨hg, hv⟩
    have hlisted : ∃ c ∈ m, c.1 = a := by
      by_contra hno
      push Not at hno
      exact hv (hg ▸ Memory.get_eq_zero hno)
    obtain ⟨⟨b, w⟩, hc, rfl⟩ := hlisted
    rwa [← hg, Memory.get_of_mem hw.1 hc]

/-- Canonical cores that read alike are equal: they have the same entries in the same order. -/
theorem Memory.ext_get {m m' : Memory} (hw : Memory.wf m) (hw' : Memory.wf m')
    (h : ∀ a, m.get a = m'.get a) : m = m' := by
  have hmem : ∀ c, c ∈ m ↔ c ∈ m' := fun c => by
    rw [Memory.mem_iff_get hw, Memory.mem_iff_get hw', h]
  have : Std.Antisymm (fun x y : Nat × Nibble => x.1 < y.1) := ⟨fun _ _ h1 h2 => by omega⟩
  have : Std.Irrefl (fun x y : Nat × Nibble => x.1 < y.1) := ⟨fun _ => Nat.lt_irrefl _⟩
  exact hw.1.eq_of_mem_iff hw'.1 hmem

/-- Settles O8, by extensionality of canonical cores. -/
theorem canonicalCoresThatReadAlikeAreEqual : Obligations.CanonicalCoresThatReadAlikeAreEqual := by
  refine ⟨fun m m' hw hw' h => Memory.ext_get hw hw' h, fun m a hw => ?_,
    fun m a b v w hw hab => ?_⟩
  · refine Memory.ext_get (Memory.set_wf _ _ hw) hw fun x => ?_
    rw [Memory.get_set]
    split
    next hx => rw [hx]
    next => rfl
  · refine Memory.ext_get (Memory.set_wf _ _ (Memory.set_wf _ _ hw))
      (Memory.set_wf _ _ (Memory.set_wf _ _ hw)) fun x => ?_
    simp only [Memory.get_set]
    split
    next hx => rw [if_neg (by omega)]
    next => rfl

/-! ### What the host reads -/

/-- At the end of a SINGLE run the host reads the stepping agent's entry (R166). -/
theorem singleEnd_of_ended {s : State} (hm : s.cfg.mode = .single) (hr : s.runStatus ≠ .running) :
    singleEnd s = some
      { status := s.runStatus, output := s.output, core := s.core, cp := (curAgent s).cp,
        ep := (curAgent s).ep, haltCause := (curAgent s).haltCause, buffer := s.buffer,
        iter := s.iter } := by
  cases hs : s.runStatus with
  | running => exact absurd hs hr
  | halted | stopped => simp only [singleEnd, hm, hs]

/-- A SINGLE run under way has no end to read (R166). -/
theorem singleEnd_of_running {s : State} (hr : s.runStatus = .running) : singleEnd s = none := by
  cases hm : s.cfg.mode <;> simp only [singleEnd, hm, hr]

/-- An arena has no end of a SINGLE run (R42). -/
theorem singleEnd_of_arena {s : State} (hm : s.cfg.mode = .arena) : singleEnd s = none := by
  simp only [singleEnd, hm]

/-- In SINGLE mode the stepping agent is agent 0 (R164). -/
theorem cur_of_single {s : State} (hm : s.cfg.mode = .single) : cur s = 0 := by
  simp only [cur, hm]

/-- Settles O22: the codes are the definitions' own, the end is read from agent 0's entry. -/
theorem hostReadsThePortCodesAndTheEndOfASingleRun :
    Obligations.HostReadsThePortCodesAndTheEndOfASingleRun := by
  refine ⟨⟨rfl, rfl⟩, ⟨rfl, rfl, rfl⟩, ⟨rfl, rfl, rfl⟩, ⟨rfl, rfl, rfl, rfl⟩,
    ⟨rfl, rfl, rfl, rfl, rfl⟩, fun s a hm hr ha => ?_, fun s _ hr => singleEnd_of_running hr,
    fun s hm => singleEnd_of_arena hm⟩
  have hcur : s.agents[cur s]? = some a := by rwa [cur_of_single hm]
  rw [singleEnd_of_ended hm hr, curAgent_of_some hcur]

/-! ### The reset state -/

/-- The boot transition of a SINGLE run (R203). -/
theorem step_boot {s : State} {p : Program} (hm : s.cfg.mode = .single) (hn : 2 ≤ s.cfg.coreSize)
    (hp : s.phase = .loading) (hpr : s.cfg.programs = [p]) : step s = .next (bootSingle p s) := by
  simp only [step, hm, singleStep, if_neg (Nat.not_lt.mpr hn), hp, startSingle, hpr]

/-- Settles O48: the boot of the empty program under the default configuration. -/
theorem resetIsTheRunStartOfTheEmptyProgram : Obligations.ResetIsTheRunStartOfTheEmptyProgram := by
  have hboot : step (hostConfigure RunConfig.default) = .next State.reset :=
    step_boot (p := []) rfl (by decide) rfl rfl
  exact ⟨hboot, fun _ => Memory.get_nil _, rfl, rfl, rfl, rfl, rfl, rfl, rfl, rfl⟩

/-! ### The controllers write no configuration -/

/-- A placement changes the agent table and the random channel's position only (R180, R181). -/
theorem place_frame (s : State) :
    (place s).2 = { s with agents := (place s).2.agents, drawPos := (place s).2.drawPos } :=
  (placeFrom_frame _ _ _ _).1

/-- A placement keeps the number of agents (R180). -/
theorem place_length (s : State) : (place s).2.agents.length = s.agents.length := by
  have h := congrArg List.length
    (placeFrom_frame (agentCount s.cfg - 1) 1 (exclusion s.cfg anchor) (setStart s 0 anchor)).2
  rw [List.length_map, List.length_map] at h
  exact h.trans (List.length_modify ..)

/-- What the head of the round loop does: RoundInit and Place, then LoadAll or CONFIG_ERROR; or, with
no round left, DONE (R175, R181). -/
theorem beginRound_cases (s : State) :
    s.round < s.cfg.rounds ∧
        beginRound s = { loadAll (place (roundInit s)).2 with phase := .running } ∨
      s.round < s.cfg.rounds ∧
        beginRound s = failConfig (place (roundInit s)).2 .placementImpossible ∨
      s.cfg.rounds ≤ s.round ∧
        beginRound s = { s with round := s.cfg.rounds, arenaStatus := .done } := by
  unfold beginRound
  split
  next hlt =>
    split
    next t ht => exact .inl ⟨hlt, by rw [ht]⟩
    next t ht => exact .inr (.inl ⟨hlt, by rw [ht]⟩)
  next hge => exact .inr (.inr ⟨by omega, rfl⟩)

@[simp] theorem startArena_cfg (s : State) : (startArena s).cfg = s.cfg := by
  unfold startArena; split <;> rfl

@[simp] theorem beginRound_cfg (s : State) : (beginRound s).cfg = s.cfg := by
  have hplace : (place (roundInit s)).2.cfg = s.cfg := by
    rw [place_frame]; rfl
  obtain ⟨_, h⟩ | ⟨_, h⟩ | ⟨_, h⟩ := beginRound_cases s
  · exact h ▸ hplace
  · exact h ▸ hplace
  · exact h ▸ rfl

@[simp] theorem endRound_cfg (s : State) : (endRound s).cfg = s.cfg := by
  unfold endRound; split <;> rfl

/-- No transition writes the configuration (R37). -/
theorem step_cfg {s t : State} (h : step s = .next t) : t.cfg = s.cfg := by
  cases step_shape h with
  | boot | stop => rfl
  | single u _ _ _ _ _ hu => exact (exec_controller hu).1
  | start => exact startArena_cfg s
  | begin => exact beginRound_cfg s
  | roundEnd => exact endRound_cfg s
  | turn u _ _ _ _ _ hu => exact (nextTurn_cfg u).trans (exec_controller hu).1
  | skip => exact nextTurn_cfg s

/-- Settles O42, over the shapes of a transition. -/
theorem configurationIsNeverWritten : Obligations.ConfigurationIsNeverWritten :=
  fun _ _ h => step_cfg h

/-- The configuration, the phase, the arena's counters, ITER and the draws are kept by every
instruction. -/
theorem exec_frame {i : Instr} {s t : State} (h : exec i s = .next t) :
    t = { s with core := t.core, agents := t.agents, buffer := t.buffer,
                 runStatus := t.runStatus, inPos := t.inPos, output := t.output } := by
  cases exec_shape h <;> rfl

/-! ### Legal cores -/

/-- A canonical core of addresses below `n`: the core's part of `State.Inv`. -/
def Memory.Legal (n : Nat) (m : Memory) : Prop := Memory.wf m ∧ ∀ c ∈ m, c.1 < n

theorem Memory.legal_nil (n : Nat) : Memory.Legal n [] := ⟨Memory.nil_wf, by simp⟩

/-- A write at a residue keeps a core legal (R52). -/
theorem Memory.Legal.set_wrap {n : Nat} {m : Memory} (hn : 0 < n) (x : Int) (v : Nibble)
    (h : Memory.Legal n m) : Memory.Legal n (m.set (wrap n x) v) :=
  ⟨Memory.set_wf _ _ h.1, Memory.set_lt _ (wrap_lt hn x) h.2⟩

/-- A load keeps a core legal and leaves its cursor in the core (R201). -/
theorem load_legal {n : Nat} (hn : 0 < n) (p : Program) {m : Memory} {o : Nat} (ho : o < n)
    (h : Memory.Legal n m) :
    Memory.Legal n (load n p m o).core ∧ (load n p m o).cursor < n := by
  obtain ⟨hwf, hlt, hcur⟩ := loadFrom_wf hn p 0 h.1 h.2 ho
  exact ⟨⟨hwf, hlt⟩, hcur⟩

/-- Every instruction keeps the core legal. -/
theorem exec_core_legal {i : Instr} {s t : State} (hn : 0 < s.cfg.coreSize) (h : exec i s = .next t)
    (hc : Memory.Legal s.cfg.coreSize s.core) : Memory.Legal s.cfg.coreSize t.core := by
  cases exec_shape h with
  | move | out | noOp | notTaken | jump | unmatched | halt => exact hc
  | cell => exact hc.set_wrap hn _ _
  | char | inp | swap => exact (hc.set_wrap hn _ _).set_wrap hn _ _

/-! ### What an instruction does to the agent table -/

/-- What holds of every entry of a table still holds after one entry is changed by a function that
keeps it. -/
theorem forall_mem_modify {P : Agent → Prop} {l : List Agent} {f : Agent → Agent} (k : Nat)
    (hf : ∀ a, P a → P (f a)) (h : ∀ a ∈ l, P a) : ∀ a ∈ l.modify k f, P a := by
  intro b hb
  obtain ⟨j, hj⟩ := List.mem_iff_getElem?.mp hb
  rw [List.getElem?_modify] at hj
  obtain ⟨a, ha, rfl⟩ := Option.map_eq_some_iff.mp hj
  have hPa := h a (List.mem_of_getElem? ha)
  split
  · exact hf a hPa
  · exact hPa

/-- A change of an entry that writes nothing but CP and EP, with core addresses (R24, R25). -/
structure PointerMove (n : Nat) (f : Agent → Agent) : Prop where
  /-- Every other field is kept. -/
  keeps : ∀ a, f a = { a with cp := (f a).cp, ep := (f a).ep }
  /-- The pointers stay in the core. -/
  inCore : ∀ a, a.InCore n → (f a).InCore n

namespace PointerMove

theorem setEP {n : Nat} (hn : 0 < n) (x : Int) : PointerMove n (fun a => { a with ep := wrap n x }) :=
  ⟨fun _ => rfl, fun _ ⟨hcp, _, hst⟩ => ⟨hcp, wrap_lt hn x, hst⟩⟩

theorem setCP {n : Nat} (hn : 0 < n) (x : Int) : PointerMove n (fun a => { a with cp := wrap n x }) :=
  ⟨fun _ => rfl, fun _ ⟨_, hep, hst⟩ => ⟨wrap_lt hn x, hep, hst⟩⟩

theorem comp {n : Nat} {f g : Agent → Agent} (hg : PointerMove n g) (hf : PointerMove n f) :
    PointerMove n (g ∘ f) :=
  ⟨fun a => (hg.keeps (f a)).trans (congrArg
      (fun b : Agent => { b with cp := (g (f a)).cp, ep := (g (f a)).ep }) (hf.keeps a)),
    fun a ha => hg.inCore _ (hf.inCore a ha)⟩

variable {n : Nat} {f : Agent → Agent} (h : PointerMove n f) (a : Agent)
include h

theorem alive_eq : (f a).alive = a.alive := by rw [h.keeps a]
theorem score_eq : (f a).score = a.score := by rw [h.keeps a]
theorem haltCause_eq : (f a).haltCause = a.haltCause := by rw [h.keeps a]

end PointerMove

/-- What an instruction can do to the agent table and to run_status: move the stepping agent's
pointers, or halt (R98, R99, R161). -/
theorem exec_table {i : Instr} {s t : State} (hn : 0 < s.cfg.coreSize) (h : exec i s = .next t) :
    (∃ f, PointerMove s.cfg.coreSize f ∧ t.agents = s.agents.modify (cur s) f ∧
        t.runStatus = s.runStatus) ∨
      ∃ c, c ≠ .none ∧ t = takeHalt s c := by
  cases exec_shape h with
  | move _ k =>
    exact .inl ⟨_, (PointerMove.setEP hn _).comp (.setCP hn _), List.modify_modify_eq .., rfl⟩
  | jump _ d f q =>
    exact .inl ⟨_, (PointerMove.setEP hn _).comp (.setEP hn _), List.modify_modify_eq .., rfl⟩
  | cell | char | out | inp | swap | noOp | notTaken =>
    exact .inl ⟨_, .setEP hn _, rfl, rfl⟩
  | unmatched => exact .inr ⟨.unmatched, by decide, rfl⟩
  | halt => exact .inr ⟨.haltOp, by decide, rfl⟩

/-- No instruction changes the number of agents. -/
theorem exec_agents_length {i : Instr} {s t : State} (hn : 0 < s.cfg.coreSize)
    (h : exec i s = .next t) : t.agents.length = s.agents.length := by
  obtain ⟨f, _, ht, _⟩ | ⟨c, _, rfl⟩ := exec_table hn h
  · rw [ht, List.length_modify]
  · rw [takeHalt_agents, List.length_modify]

/-- What pointer moves and halts keep of every entry, every instruction keeps of every entry. -/
theorem exec_forall_agents {P : Agent → Prop} {i : Instr} {s t : State} (hn : 0 < s.cfg.coreSize)
    (h : exec i s = .next t)
    (hmove : ∀ f, PointerMove s.cfg.coreSize f → ∀ a, P a → P (f a))
    (hhalt : ∀ c, c ≠ .none → ∀ a, P a → P (haltAgent s.cfg.mode c a))
    (hs : ∀ a ∈ s.agents, P a) : ∀ a ∈ t.agents, P a := by
  obtain ⟨f, hf, ht, _⟩ | ⟨c, hc, rfl⟩ := exec_table hn h
  · rw [ht]; exact forall_mem_modify _ (hmove f hf) hs
  · exact forall_mem_modify _ (hhalt c hc) hs

/-- Every instruction keeps the pointers in the core (R24, R25). -/
theorem exec_inCore {i : Instr} {s t : State} (hn : 0 < s.cfg.coreSize) (h : exec i s = .next t)
    (hs : ∀ a ∈ s.agents, a.InCore s.cfg.coreSize) : ∀ a ∈ t.agents, a.InCore s.cfg.coreSize :=
  exec_forall_agents hn h (fun _ hf => hf.inCore) (fun _ _ _ ha => ha) hs

/-! ### The parts of the invariant -/

/-- The core's part of the invariant. -/
theorem State.Inv.core_legal {s : State} (h : State.Inv s) : Memory.Legal s.cfg.coreSize s.core :=
  ⟨h.core_wf, h.core_lt⟩

theorem State.Inv.coreSize_pos {s : State} (h : State.Inv s) : 0 < s.cfg.coreSize :=
  Nat.lt_of_lt_of_le Nat.two_pos h.core_size

/-- The parts that make the invariant of a SINGLE state. -/
theorem State.Inv.of_single {s : State} (hm : s.cfg.mode = .single) (hn : 2 ≤ s.cfg.coreSize)
    (hc : Memory.Legal s.cfg.coreSize s.core) (hp : ∀ a ∈ s.agents, a.InCore s.cfg.coreSize)
    (hs : SingleInv s) : State.Inv s :=
  ⟨hn, hc.1, hc.2, hp, fun _ => hs, fun hm' => absurd (hm.symm.trans hm') (by decide)⟩

/-- The parts that make the invariant of an ARENA state. -/
theorem State.Inv.of_arena {s : State} (hm : s.cfg.mode = .arena) (hn : 2 ≤ s.cfg.coreSize)
    (hc : Memory.Legal s.cfg.coreSize s.core) (hp : ∀ a ∈ s.agents, a.InCore s.cfg.coreSize)
    (ha : ArenaInv s) : State.Inv s :=
  ⟨hn, hc.1, hc.2, hp, fun hm' => absurd (hm.symm.trans hm') (by decide), fun _ _ => ha⟩

/-! ### The transitions of a SINGLE run -/

/-- The boot establishes the invariant (R203). -/
theorem bootSingle_inv {s : State} (p : Program) (hm : s.cfg.mode = .single)
    (hn : 2 ≤ s.cfg.coreSize) : State.Inv (bootSingle p s) := by
  have hpos : 0 < s.cfg.coreSize := by omega
  obtain ⟨hcore, hcursor⟩ := load_legal hpos p hpos (Memory.legal_nil _)
  refine .of_single hm hn hcore ?_ ?_
  · intro a ha
    rw [List.mem_singleton.mp ha]
    exact ⟨hcursor, hpos, hpos⟩
  · refine ⟨Nat.zero_le _, Nat.zero_le _, fun _ => rfl, fun _ a ha => ?_⟩
    rw [List.mem_singleton.mp ha]
    exact ⟨fun h => (nomatch h), fun h => absurd rfl h⟩

/-- Before the stop no agent has halted, and the stop halts none (R153). -/
theorem stopRun_inv {s : State} (h : State.Inv s) (hm : s.cfg.mode = .single)
    (hp : s.phase = .running) (hr : s.runStatus = .running) : State.Inv (stopRun s) := by
  have hs := h.single hm
  refine .of_single hm h.core_size h.core_legal h.pointers
    ⟨hs.iter_le, hs.inPos_le, hs.one_agent, fun _ a ha => ?_⟩
  have hnone := hs.halted_iff hp a ha
  rw [hr] at hnone
  exact ⟨fun h => (nomatch h), fun h => (nomatch hnone.mpr h)⟩

/-- A byte is consumed only where the host's sequence has one (R171). -/
theorem inConsume_inPos_le {s : State} (h : s.inPos ≤ s.cfg.input.length) :
    (inConsume s).inPos ≤ s.cfg.input.length := by
  unfold inConsume inAnswer
  split
  next b hb => exact (List.getElem?_eq_some_iff.mp hb).1
  next => exact h

/-- Every instruction keeps the input position inside the host's sequence (R40). -/
theorem exec_inPos_le {i : Instr} {s t : State} (h : exec i s = .next t)
    (hs : s.inPos ≤ s.cfg.input.length) : t.inPos ≤ s.cfg.input.length := by
  cases exec_shape h with
  | inp => exact inConsume_inPos_le hs
  | move | cell | char | out | swap | noOp | notTaken | jump | unmatched | halt => exact hs

/-- An instruction of a SINGLE run under way halts the run exactly when it gives agent 0 a halt cause
(R161). -/
theorem exec_halted_iff {i : Instr} {s t : State} (hn : 0 < s.cfg.coreSize)
    (h : exec i s = .next t) (hm : s.cfg.mode = .single) (hr : s.runStatus = .running)
    (hone : s.agents.length = 1) (hnone : ∀ a ∈ s.agents, a.haltCause = .none) :
    ∀ a ∈ t.agents, (t.runStatus = .halted ↔ a.haltCause ≠ .none) := by
  obtain ⟨f, hf, ht, hrun⟩ | ⟨c, hc, rfl⟩ := exec_table hn h
  · have hnone' : ∀ a ∈ t.agents, a.haltCause = .none := by
      rw [ht]
      exact forall_mem_modify _ (fun a ha => (hf.haltCause_eq a).trans ha) hnone
    intro a ha
    rw [hrun, hr]
    exact ⟨fun h => (nomatch h), fun h => absurd (hnone' a ha) h⟩
  · obtain ⟨a, ha⟩ := List.length_eq_one_iff.mp hone
    have hcur : s.agents[cur s]? = some a := by rw [cur, hm, ha]; rfl
    rw [takeHalt_single c hm hcur, ha]
    simp [cur, hm, hc]

/-- A step of the SINGLE run within its budget keeps the invariant (R164, R165). -/
theorem countIter_exec_inv {i : Instr} {s u : State} (h : State.Inv s) (hm : s.cfg.mode = .single)
    (hp : s.phase = .running) (hr : s.runStatus = .running) (hi : s.iter < s.cfg.maxIter)
    (hu : exec i s = .next u) : State.Inv (countIter u) := by
  have hs := h.single hm
  have hpos := h.coreSize_pos
  have hnone : ∀ a ∈ s.agents, a.haltCause = .none := fun a ha => by
    have hiff := hs.halted_iff hp a ha
    rw [hr] at hiff
    by_contra hne
    exact nomatch hiff.mpr hne
  have hone := hs.one_agent hp
  have hcore := exec_core_legal hpos hu h.core_legal
  have hptr := exec_inCore hpos hu h.pointers
  have hlen := exec_agents_length hpos hu
  have hinPos := exec_inPos_le hu hs.inPos_le
  have hhalted := exec_halted_iff hpos hu hm hr hone hnone
  rw [exec_frame hu]
  exact .of_single hm h.core_size hcore hptr
    ⟨hi, hinPos, fun _ => hlen.trans hone, fun _ => hhalted⟩

/-! ### The transitions of an arena -/

/-- In ARENA mode there is an agent for each program (R6). -/
theorem agentCount_of_arena {c : RunConfig} (hm : c.mode = .arena) :
    agentCount c = c.programs.length := by
  simp only [agentCount, hm]

/-- A configuration that passes the check has two or more agents (R176). -/
theorem two_le_agentCount_of_checked {c : RunConfig} (h : configCheck c = none) :
    2 ≤ agentCount c := by
  unfold configCheck at h
  by_contra hlt
  split at h
  · cases h
  · rw [if_pos (by omega)] at h; cases h

/-- Every entry of a constructed table is fresh (R175). -/
theorem mem_construct_agents {s : State} {a : Agent} (h : a ∈ (construct s).agents) :
    a = Agent.fresh := by
  obtain ⟨_, _, rfl⟩ := List.mem_map.mp h
  rfl

/-- What the start of an arena does: construction, then CONFIG_ERROR or RUNNING as the check says
(R175, R176). -/
theorem startArena_cases (s : State) :
    (∃ e, startArena s = failConfig (construct s) e) ∨
      configCheck s.cfg = none ∧ startArena s =
        { construct s with arenaStatus := .running, configError := none, phase := .loading } := by
  unfold startArena
  split
  next e _ => exact .inl ⟨e, rfl⟩
  next h => exact .inr ⟨h, rfl⟩

/-- The start of an arena establishes the arena's invariant (R175, R176). -/
theorem startArena_arenaInv {s : State} (hm : s.cfg.mode = .arena) : ArenaInv (startArena s) := by
  have hscore : ∀ a ∈ (construct s).agents,
      a.score ≤ 0 * (s.cfg.programs.length * s.cfg.programs.length - 1) := fun a ha => by
    rw [mem_construct_agents ha]; exact Nat.zero_le _
  obtain ⟨e, he⟩ | ⟨hcheck, he⟩ := startArena_cases s
  · rw [he]
    exact
      { agent_count := List.length_map ..
        error_iff := ⟨fun _ h => (nomatch h), fun _ => rfl⟩
        checked := fun h => nomatch h
        round_le := Nat.zero_le _
        round_lt := fun h => nomatch h
        done_round := fun h => nomatch h
        cycle_le := Nat.zero_le _
        turn_le := Nat.zero_le _
        turn_lt := fun h => nomatch h
        pass_open := fun h => absurd rfl h
        alive_or_dead := fun h => nomatch h
        score_le := hscore }
  · have htwo := two_le_agentCount_of_checked hcheck
    rw [agentCount_of_arena hm] at htwo
    rw [he]
    exact
      { agent_count := List.length_map ..
        error_iff := ⟨fun h => (nomatch h), fun h => absurd rfl h⟩
        checked := fun _ => hcheck
        round_le := Nat.zero_le _
        round_lt := fun _ h => nomatch h
        done_round := fun h => nomatch h
        cycle_le := Nat.zero_le _
        turn_le := Nat.zero_le _
        turn_lt := fun _ => Nat.lt_of_lt_of_le Nat.two_pos htwo
        pass_open := fun h => absurd rfl h
        alive_or_dead := fun _ h => nomatch h
        score_le := hscore }

/-- The start of an arena keeps the invariant. -/
theorem startArena_inv {s : State} (h : State.Inv s) (hm : s.cfg.mode = .arena) :
    State.Inv (startArena s) := by
  have hcore : (startArena s).core = s.core := by unfold startArena; split <;> rfl
  have hagents : (startArena s).agents = (construct s).agents := by
    unfold startArena; split <;> rfl
  refine .of_arena (startArena_cfg s ▸ hm) ?_ ?_ ?_ (startArena_arenaInv hm)
  · exact (startArena_cfg s).symm ▸ h.core_size
  · rw [startArena_cfg, hcore]; exact h.core_legal
  · rw [startArena_cfg, hagents]
    intro a ha
    rw [mem_construct_agents ha]
    exact ⟨h.coreSize_pos, h.coreSize_pos, h.coreSize_pos⟩

/-! ### Placement and load -/

/-- What a start in the core keeps of every entry, a placement keeps of every entry (R180). -/
theorem placeFrom_forall {P : Agent → Prop} {n : Nat}
    (hstart : ∀ a v, v < n → P a → P { a with start := v }) (todo i : Nat) (res : List Nat)
    (s : State) (hn : s.cfg.coreSize = n) (hs : ∀ a ∈ s.agents, P a) :
    ∀ a ∈ (placeFrom todo i res s).2.agents, P a := by
  induction todo generalizing i res s with
  | zero => exact hs
  | succ todo ih =>
    unfold placeFrom
    split
    next => exact hs
    next v hv =>
      have hlt : v < n := hn ▸ (mem_unreserved.mp (draw_mem hv)).1
      exact ih _ _ _ hn (forall_mem_modify _ (fun a => hstart a v hlt) hs)

/-- The head of a round leaves a zero core and CYCLE and TURN 0, and an agent table of the same size
with every pointer in the core, no halt cause and the scores kept below their bound (R177, R180). -/
theorem place_roundInit {s : State} {B : Nat} (hn : 0 < s.cfg.coreSize)
    (hptr : ∀ a ∈ s.agents, a.InCore s.cfg.coreSize) (hscore : ∀ a ∈ s.agents, a.score ≤ B) :
    ∃ as d, (place (roundInit s)).2 =
        { s with core := [], cycle := 0, turn := 0, agents := as, drawPos := d } ∧
      as.length = s.agents.length ∧
      ∀ a ∈ as, a.InCore s.cfg.coreSize ∧ a.haltCause = .none ∧ a.score ≤ B := by
  refine ⟨_, _, place_frame _, (place_length _).trans (List.length_map ..), ?_⟩
  have hstart : ∀ (a : Agent) (v : Nat), v < s.cfg.coreSize →
      a.InCore s.cfg.coreSize ∧ a.haltCause = .none ∧ a.score ≤ B →
      ({ a with start := v } : Agent).InCore s.cfg.coreSize ∧ a.haltCause = .none ∧ a.score ≤ B :=
    fun a v hv ⟨⟨hcp, hep, _⟩, hrest⟩ => ⟨⟨hcp, hep, hv⟩, hrest⟩
  refine placeFrom_forall hstart _ _ _ _ rfl
    (forall_mem_modify _ (fun a => hstart a anchor hn) fun b hb => ?_)
  obtain ⟨a, ha, rfl⟩ := List.mem_map.mp hb
  exact ⟨hptr a ha, rfl, hscore a ha⟩

/-- The load of a whole table keeps the core legal, puts every pointer in the core and leaves every
agent alive (R182). -/
theorem loadAgents_legal {n : Nat} (hn : 0 < n) (ps : List Program) (as : List Agent) {m : Memory}
    (hlen : as.length = ps.length) (hm : Memory.Legal n m) (has : ∀ a ∈ as, a.InCore n) :
    Memory.Legal n (loadAgents n ps as m).1 ∧
      ∀ a ∈ (loadAgents n ps as m).2, a.InCore n ∧ a.alive = true := by
  induction ps generalizing as m with
  | nil =>
    obtain rfl := List.length_eq_zero_iff.mp hlen
    exact ⟨hm, by simp [loadAgents]⟩
  | cons p ps ih =>
    obtain _ | ⟨a, as⟩ := as
    · cases hlen
    · obtain ⟨⟨_, _, hst⟩, hrest⟩ := List.forall_mem_cons.mp has
      obtain ⟨hcore, hcursor⟩ := load_legal hn p hst hm
      obtain ⟨hcore', hagents⟩ := ih as (Nat.succ.inj hlen) hcore hrest
      exact ⟨hcore', List.forall_mem_cons.mpr ⟨⟨⟨hcursor, hst, hst⟩, rfl⟩, hagents⟩⟩

/-- What a load does not set, it keeps of every entry (R182). -/
theorem loadAgents_forall {β : Type} (g : Agent → β) (hg : ∀ a l, g (loadedAgent a l) = g a)
    (P : β → Prop) (n : Nat) (ps : List Program) {as : List Agent} (m : Memory)
    (h : ∀ a ∈ as, P (g a)) : ∀ a ∈ (loadAgents n ps as m).2, P (g a) := by
  rw [← List.forall_mem_map] at h ⊢
  rwa [loadAgents_map g hg]

/-! ### The rounds of an arena -/

/-- An arena that runs meets the arena's invariant. -/
theorem State.Inv.arena_of_running {s : State} (h : State.Inv s) (hm : s.cfg.mode = .arena)
    (hr : s.arenaStatus = .running) : ArenaInv s :=
  h.arena hm (by rw [hr]; decide)

/-- An arena that runs names no error (R33). -/
theorem ArenaInv.configError_none {s : State} (h : ArenaInv s) (hr : s.arenaStatus = .running) :
    s.configError = none := by
  by_contra hne
  exact nomatch hr.symm.trans (h.error_iff.mpr hne)

/-- An arena that ran is DONE with a table of as many agents whose scores are those of all rounds
(R175, R190). -/
theorem ArenaInv.done {s : State} (hs : ArenaInv s) (hr : s.arenaStatus = .running)
    {as : List Agent} (hlen : as.length = s.cfg.programs.length)
    (hscore : ∀ a ∈ as,
      a.score ≤ s.cfg.rounds * (s.cfg.programs.length * s.cfg.programs.length - 1)) :
    ArenaInv { s with agents := as, round := s.cfg.rounds, arenaStatus := .done } :=
  { hs with
    agent_count := hlen
    error_iff := iff_of_false (fun h => nomatch h) (not_not_intro (hs.configError_none hr))
    checked := fun h => nomatch h
    round_le := Nat.le_refl _
    round_lt := fun h => nomatch h
    done_round := fun _ => rfl
    turn_lt := fun h => nomatch h
    alive_or_dead := fun h => nomatch h
    score_le := hscore }

/-- A round start that loads every program begins the passes (R177, R180, R182). -/
theorem loadAll_inv {s : State} (h : State.Inv s) (hm : s.cfg.mode = .arena)
    (hr : s.arenaStatus = .running) (hlt : s.round < s.cfg.rounds) :
    State.Inv { loadAll (place (roundInit s)).2 with phase := .running } := by
  have hs := h.arena_of_running hm hr
  obtain ⟨as, d, hplace, hlen, has⟩ := place_roundInit h.coreSize_pos h.pointers hs.score_le
  have hcount := hlen.trans hs.agent_count
  obtain ⟨hcore, hagents⟩ := loadAgents_legal h.coreSize_pos s.cfg.programs as hcount
    (Memory.legal_nil _) (fun a ha => (has a ha).1)
  have hcause := loadAgents_forall Agent.haltCause (fun _ _ => rfl) (fun c => c = .none)
    s.cfg.coreSize s.cfg.programs [] (fun a ha => (has a ha).2.1)
  have hscore := loadAgents_forall Agent.score (fun _ _ => rfl) (fun n => n ≤ _)
    s.cfg.coreSize s.cfg.programs [] (fun a ha => (has a ha).2.2)
  rw [hplace]
  refine .of_arena hm h.core_size hcore (fun a ha => (hagents a ha).1) ?_
  exact { hs with
    agent_count := (loadAgents_length ..).trans hcount
    round_lt := fun _ _ => hlt
    cycle_le := Nat.zero_le _
    turn_le := Nat.zero_le _
    turn_lt := fun _ => Nat.zero_lt_of_lt (hs.turn_lt hr)
    pass_open := fun h0 => absurd rfl h0
    alive_or_dead := fun _ _ a ha => iff_of_true (hagents a ha).2 (hcause a ha)
    score_le := hscore }

/-- A placement that fails ends the arena in CONFIG_ERROR (R181). -/
theorem failPlacement_inv {s : State} (h : State.Inv s) (hm : s.cfg.mode = .arena)
    (hr : s.arenaStatus = .running) :
    State.Inv (failConfig (place (roundInit s)).2 .placementImpossible) := by
  have hs := h.arena_of_running hm hr
  obtain ⟨as, d, hplace, hlen, has⟩ := place_roundInit h.coreSize_pos h.pointers hs.score_le
  rw [hplace]
  refine .of_arena hm h.core_size (Memory.legal_nil _) (fun a ha => (has a ha).1) ?_
  exact { hs with
    agent_count := hlen.trans hs.agent_count
    error_iff := ⟨fun _ h => (nomatch h), fun _ => rfl⟩
    checked := fun h => nomatch h
    round_lt := fun h => nomatch h
    done_round := fun h => nomatch h
    cycle_le := Nat.zero_le _
    turn_le := Nat.zero_le _
    turn_lt := fun h => nomatch h
    pass_open := fun h0 => absurd rfl h0
    alive_or_dead := fun h => nomatch h
    score_le := fun a ha => (has a ha).2.2 }

/-- An arena with no round left is DONE (R175); its bounds on the scores only widen. -/
theorem doneArena_inv {s : State} (h : State.Inv s) (hm : s.cfg.mode = .arena)
    (hr : s.arenaStatus = .running) :
    State.Inv { s with round := s.cfg.rounds, arenaStatus := .done } := by
  have hs := h.arena_of_running hm hr
  exact .of_arena hm h.core_size h.core_legal h.pointers (hs.done hr hs.agent_count
    fun a ha => (hs.score_le a ha).trans (Nat.mul_le_mul_right _ hs.round_le))

/-- The head of the round loop keeps the invariant. -/
theorem beginRound_inv {s : State} (h : State.Inv s) (hm : s.cfg.mode = .arena)
    (hr : s.arenaStatus = .running) : State.Inv (beginRound s) := by
  obtain ⟨hlt, hb⟩ | ⟨_, hb⟩ | ⟨_, hb⟩ := beginRound_cases s
  · exact hb ▸ loadAll_inv h hm hr hlt
  · exact hb ▸ failPlacement_inv h hm hr
  · exact hb ▸ doneArena_inv h hm hr

/-- An award is at most K² - 1 (R188). -/
theorem award_le (k sv : Nat) : award k sv ≤ k * k - 1 := Nat.div_le_self _ _

/-- Scoring writes nothing but scores (R188). -/
theorem score_inCore {s : State} {n : Nat} (h : ∀ a ∈ s.agents, a.InCore n) :
    ∀ a ∈ (score s).agents, a.InCore n := by
  intro b hb
  obtain ⟨a, ha, rfl⟩ := List.mem_map.mp hb
  split <;> exact h a ha

/-- The score of one round more fits the bound of one round more (R188). -/
theorem score_score_le {s : State} (hm : s.cfg.mode = .arena)
    (h : ∀ a ∈ s.agents,
      a.score ≤ s.round * (s.cfg.programs.length * s.cfg.programs.length - 1)) :
    ∀ a ∈ (score s).agents,
      a.score ≤ (s.round + 1) * (s.cfg.programs.length * s.cfg.programs.length - 1) := by
  intro b hb
  obtain ⟨a, ha, rfl⟩ := List.mem_map.mp hb
  have haward := award_le s.cfg.programs.length (aliveCount s)
  have hold := h a ha
  rw [agentCount_of_arena hm, Nat.succ_mul]
  split
  · exact Nat.add_le_add hold haward
  · exact hold.trans (Nat.le_add_right _ _)

/-- The end of a round keeps the invariant: it scores, and goes to the next round or to DONE (R175,
R189). -/
theorem endRound_inv {s : State} (h : State.Inv s) (hm : s.cfg.mode = .arena)
    (hr : s.arenaStatus = .running) (hp : s.phase = .running) : State.Inv (endRound s) := by
  have hs := h.arena_of_running hm hr
  have hlt := hs.round_lt hr hp
  have hcount : (score s).agents.length = s.cfg.programs.length :=
    (List.length_map ..).trans hs.agent_count
  have hptr := score_inCore h.pointers
  have hscore := score_score_le hm hs.score_le
  unfold endRound
  split
  next hnext =>
    refine .of_arena hm h.core_size h.core_legal hptr ?_
    exact { hs with
      agent_count := hcount
      round_le := hlt
      round_lt := fun _ h => nomatch h
      done_round := fun hd => nomatch hr.symm.trans hd
      alive_or_dead := fun _ h => nomatch h
      score_le := hscore }
  next hlast =>
    have hround : s.round + 1 = s.cfg.rounds := by omega
    exact .of_arena hm h.core_size h.core_legal hptr (hs.done hr hcount (hround ▸ hscore))

/-! ### The turns of a pass -/

/-- An agent's step keeps the invariant of an arena (R98, R99, R161). -/
theorem exec_arena_inv {i : Instr} {s t : State} (h : State.Inv s) (hm : s.cfg.mode = .arena)
    (hr : s.arenaStatus = .running) (ht : exec i s = .next t) : State.Inv t := by
  have hs := h.arena_of_running hm hr
  have hpos := h.coreSize_pos
  have hcore := exec_core_legal hpos ht h.core_legal
  have hptr := exec_inCore hpos ht h.pointers
  have hlen := exec_agents_length hpos ht
  have hlife (hp : s.phase = .running) : ∀ a ∈ t.agents, a.AliveOrDead :=
    exec_forall_agents hpos ht
      (fun f hf a ha => by rwa [Agent.AliveOrDead, hf.alive_eq, hf.haltCause_eq])
      (fun c hc a _ => by simp [Agent.AliveOrDead, haltAgent, hm, hc])
      (hs.alive_or_dead hr hp)
  have hscore := exec_forall_agents (P := fun a => a.score ≤ _) hpos ht
    (fun f hf a ha => (hf.score_eq a).trans_le ha) (fun _ _ _ ha => ha) hs.score_le
  rw [exec_frame ht]
  refine .of_arena hm h.core_size hcore hptr ?_
  exact { hs with
    agent_count := hlen.trans hs.agent_count
    alive_or_dead := fun _ hp => hlife hp
    score_le := hscore }

/-- Before a turn of a pass the cycle limit is not reached (R186). -/
theorem cycle_lt_of_turn {s : State} (hs : ArenaInv s) (hw : s.turn = 0 → passWanted s = true) :
    s.cycle < s.cfg.cycleLimit := by
  by_cases h0 : s.turn = 0
  · have hpass := hw h0
    rw [passWanted, Bool.and_eq_true, decide_eq_true_eq] at hpass
    exact hpass.1
  · exact hs.pass_open h0

/-- The turn counter keeps the invariant of an arena: the last turn of a pass counts the pass
(R184, R186). -/
theorem nextTurn_inv {s : State} (h : State.Inv s) (hm : s.cfg.mode = .arena)
    (hr : s.arenaStatus = .running) (hcycle : s.cycle < s.cfg.cycleLimit) :
    State.Inv (nextTurn s) := by
  have hs := h.arena_of_running hm hr
  unfold nextTurn
  rw [agentCount_of_arena hm]
  split
  next hlt =>
    refine .of_arena hm h.core_size h.core_legal h.pointers ?_
    exact { hs with
      turn_le := Nat.le_of_lt hlt
      turn_lt := fun _ => hlt
      pass_open := fun _ => hcycle }
  next hge =>
    refine .of_arena hm h.core_size h.core_legal h.pointers ?_
    exact { hs with
      cycle_le := hcycle
      turn_le := Nat.zero_le _
      turn_lt := fun _ => Nat.zero_lt_of_lt (hs.turn_lt hr)
      pass_open := fun h0 => absurd rfl h0 }

/-! ### Every transition -/

/-- Every transition keeps the invariant, by the shape of the transition. -/
theorem step_inv {s t : State} (h : State.Inv s) (ht : step s = .next t) : State.Inv t := by
  cases step_shape ht with
  | boot p hm hn => exact bootSingle_inv p hm hn
  | stop hm _ hp hr => exact stopRun_inv h hm hp hr
  | single u hm _ hp hr hi hu => exact countIter_exec_inv h hm hp hr hi hu
  | start hm => exact startArena_inv h hm
  | begin hm hr => exact beginRound_inv h hm hr
  | roundEnd hm hr hp => exact endRound_inv h hm hr hp
  | turn u hm hr hp hw _ hu =>
    have hcycle := cycle_lt_of_turn (h.arena_of_running hm hr) hw
    have hinv := exec_arena_inv h hm hr hu
    obtain ⟨hcfg, -, -, hcyc, -, -, hstatus, -⟩ := exec_controller hu
    exact nextTurn_inv hinv (hcfg ▸ hm) (hstatus ▸ hr) (by rwa [hcfg, hcyc])
  | skip hm hr hp hw =>
    exact nextTurn_inv h hm hr (cycle_lt_of_turn (h.arena_of_running hm hr) hw)

/-- Settles O44: the invariant is inductive. -/
theorem everyTransitionKeepsTheInvariant : Obligations.EveryTransitionKeepsTheInvariant :=
  fun _ _ h ht => step_inv h ht

/-- A configured run that has not started meets the invariant (R205), in either mode. -/
theorem hostConfigure_inv {c : RunConfig} (hn : 2 ≤ c.coreSize) : State.Inv (hostConfigure c) :=
  ⟨hn, Memory.nil_wf, fun _ h => (nomatch h), fun _ h => (nomatch h),
    fun _ => ⟨Nat.zero_le _, Nat.zero_le _, fun h => (nomatch h), fun h => (nomatch h)⟩,
    fun _ h => absurd rfl h⟩

/-- A run keeps the invariant. -/
theorem RunsTo.inv {k : Nat} {s t : State} (h : State.Inv s) (hrun : RunsTo k s t) :
    State.Inv t := by
  induction k generalizing s with
  | zero => cases (hrun : (Host.Outcome.next s : Host.Outcome State Fault Refusal) = .next t); exact h
  | succ k ih =>
    obtain ⟨u, hu, hrest⟩ := hrun.of_succ
    exact ih (step_inv h hu) hrest

/-- Every state a configured run reaches meets the invariant, in either mode. -/
theorem reachable_inv {c : RunConfig} {k : Nat} {t : State} (hn : 2 ≤ c.coreSize)
    (hrun : RunsTo k (hostConfigure c) t) : State.Inv t :=
  hrun.inv (hostConfigure_inv hn)

/-- An arena of two one-instruction programs in a core of 16 cells; the second is placed at 4. -/
def twoAgentArena : RunConfig :=
  { RunConfig.default with
    mode := .arena, separation := 1, maxLen := 1, cycleLimit := 3, rounds := 1,
    programs := [['>'], ['>']], draws := [1] }

/-- The ARENA part of the invariant is met by a round under way: the state after construction and the
load of round 0, and its first turn. -/
theorem exists_arena_round_inv :
    ∃ s t : State, s.cfg.mode = .arena ∧ s.arenaStatus = .running ∧ s.phase = .running ∧
      State.Inv s ∧ ArenaInv s ∧ step s = .next t ∧ t.turn = 1 ∧ State.Inv t := by
  have hstart : RunsTo 2 (hostConfigure twoAgentArena) _ := .succ rfl (.one rfl)
  have hinv := reachable_inv (by decide) hstart
  exact ⟨_, _, rfl, rfl, rfl, hinv, hinv.arena rfl (by decide), rfl, rfl, step_inv hinv rfl⟩

end Sys2Proof.Machine
end

section
/-! PROOFS. The core and the codec (spec/20_memory.md): what a cell write and a character write change
and leave unchanged, and the cells an instruction can write. -/

namespace Sys2Proof.Machine

/-! ### Cells -/

/-- Addresses that differ by a multiple of the core's size are the same cell (R51). -/
@[simp] theorem wrap_add_mul_self (n : Nat) (x k : Int) : wrap n (x + k * n) = wrap n x := by
  unfold wrap; rw [Int.add_mul_emod_self_right]

/-- A cell write leaves every other cell as it was (R52). -/
theorem memWrite_cellsKeptButCell (s : State) (p : Int) (v : Nibble) :
    CellsKeptButCell s (memWrite s p v) p := fun x hx => by
  rw [memRead_memWrite, if_neg hx]

/-- Settles O5: a read after a write compares residues, and only the core is written. -/
theorem writeChangesExactlyOneCell : Obligations.WriteChangesExactlyOneCell := by
  refine fun s x v hn => ⟨fun y => ?_, rfl, fun y k => ?_⟩
  · simp only [memRead_memWrite, wrap_eq_iff hn]
  · simp only [memRead, wrap_add_mul_self]

/-! ### Characters -/

/-- A nibble above a nibble, as a number (R55). -/
theorem toNat_nibble_above_nibble (hi lo : Nibble) :
    ((hi.setWidth 8 <<< 4) ||| lo.setWidth 8 : Byte).toNat = 16 * hi.toNat + lo.toNat := by
  have hhi := hi.isLt
  have hlo := lo.isLt
  have hshift : (hi.setWidth 8 <<< 4 : Byte).toNat = hi.toNat <<< 4 := by
    simp only [BitVec.toNat_shiftLeft, BitVec.toNat_setWidth, Nat.shiftLeft_eq]
    omega
  have hlow : (lo.setWidth 8 : Byte).toNat = lo.toNat := by
    rw [BitVec.toNat_setWidth]; omega
  rw [BitVec.toNat_or, hshift, hlow, ← Nat.shiftLeft_add_eq_or_of_lt hlo, Nat.shiftLeft_eq]
  omega

/-- The value of a character, from its two cells (R55). -/
theorem readChar_toNat (s : State) (p : Int) :
    (readChar s p).toNat = 16 * (memRead s (p - 1)).toNat + (memRead s p).toNat :=
  toNat_nibble_above_nibble _ _

/-- After a character write the cell before its address holds the high nibble: it is not the cell at
the address, which is written last (R54). -/
theorem memRead_writeChar_high {s : State} (hn : 2 ≤ s.cfg.coreSize) (p : Int) (b : Byte) :
    (memRead (writeChar s p b) (p - 1)).toNat = b.toNat / 16 := by
  have hb := b.isLt
  rw [memRead_writeChar, if_neg (wrap_sub_one_ne hn p), if_pos rfl, BitVec.extractLsb'_toNat,
    Nat.shiftRight_eq_div_pow]
  omega

/-- After a character write the cell at its address holds the low nibble (R54). -/
theorem memRead_writeChar_low (s : State) (p : Int) (b : Byte) :
    (memRead (writeChar s p b) p).toNat = b.toNat % 16 := by
  rw [memRead_writeChar, if_pos rfl, BitVec.extractLsb'_toNat, Nat.shiftRight_zero]

/-- A character write leaves every cell but its two as it was (R54). -/
theorem writeChar_cellsKeptButChar (s : State) (p : Int) (b : Byte) :
    CellsKeptButChar s (writeChar s p b) p := fun x hlow hhigh => by
  rw [memRead_writeChar, if_neg hlow, if_neg hhigh]

/-- Settles O6, from the value of a character and the three reads after a character write. -/
theorem characterIsTwoAdjacentCells : Obligations.CharacterIsTwoAdjacentCells :=
  fun s p b hn => ⟨readChar_toNat s p, memRead_writeChar_high hn p b, memRead_writeChar_low s p b,
    writeChar_cellsKeptButChar s p b, rfl⟩

/-- A character read where it was written (R69): its two nibbles, put together again. -/
theorem readChar_writeChar {s : State} (hn : 2 ≤ s.cfg.coreSize) (p : Int) (b : Byte) :
    readChar (writeChar s p b) p = b :=
  BitVec.eq_of_toNat_eq <| calc
    (readChar (writeChar s p b) p).toNat
      = 16 * (memRead (writeChar s p b) (p - 1)).toNat + (memRead (writeChar s p b) p).toNat :=
        readChar_toNat _ _
    _ = 16 * (b.toNat / 16) + b.toNat % 16 := by
        rw [memRead_writeChar_high hn, memRead_writeChar_low]
    _ = b.toNat := Nat.div_add_mod _ _

/-- Settles O7. -/
theorem codecRoundTrips : Obligations.CodecRoundTrips :=
  fun _ p b hn => readChar_writeChar hn p b

/-! ### The cells an instruction writes -/

/-- States with the same core and configuration read alike. -/
theorem CellsKept.of_core {s t : State} (hc : t.core = s.core) (hn : t.cfg = s.cfg) :
    CellsKept s t := memRead_congr hc hn

/-- Where every cell is kept, so is every cell outside a character. -/
theorem CellsKept.butChar {s t : State} (h : CellsKept s t) (p : Int) : CellsKeptButChar s t p :=
  fun x _ _ => h x

/-- The cell at an address is one of the two of the character there. -/
theorem CellsKeptButCell.butChar {s t : State} {p : Int} (h : CellsKeptButCell s t p) :
    CellsKeptButChar s t p := fun x hlow _ => h x hlow

/-- A frame of a write passes to every state that reads like the one written. -/
theorem CellsKeptButChar.trans_cellsKept {s t u : State} {p : Int} (h : CellsKeptButChar s t p)
    (h' : CellsKept t u) : CellsKeptButChar s u p :=
  fun x hlow hhigh => (h' x).trans (h x hlow hhigh)

/-- What an instruction leaves in the core: what it held, or the one write of a cell or of a character
at CP, which only six opcodes make (R52, R54, R98). -/
theorem exec_core_cases {i : Instr} {s t : State} (h : exec i s = .next t) :
    t.core = s.core ∨
      (i ∈ [Instr.inc, .dec] ∧ ∃ v, t.core = (setCellAtCP s v).core) ∨
      (i ∈ [Instr.cinc, .cdec, .inp, .swap] ∧ ∃ b, t.core = (setCharAtCP s b).core) := by
  cases exec_shape h with
  | move | out | noOp | notTaken | jump | unmatched | halt => exact .inl rfl
  | cell _ v hi => exact .inr (.inl ⟨hi, v, rfl⟩)
  | char _ b hi => exact .inr (.inr ⟨List.mem_append_left [Instr.inp, .swap] hi, b, rfl⟩)
  | inp | swap => exact .inr (.inr ⟨by simp, _, rfl⟩)

/-- An instruction writes no cell outside the character at CP (R54, R98). -/
theorem exec_cellsKeptButChar {i : Instr} {s t : State} (h : exec i s = .next t) :
    CellsKeptButChar s t (curAgent s).cp := by
  have hcfg : t.cfg = s.cfg := (exec_controller h).1
  obtain hc | ⟨-, v, hc⟩ | ⟨-, b, hc⟩ := exec_core_cases h
  · exact (CellsKept.of_core hc hcfg).butChar _
  · exact (memWrite_cellsKeptButCell s _ v).butChar.trans_cellsKept (.of_core hc hcfg)
  · exact (writeChar_cellsKeptButChar s _ b).trans_cellsKept (.of_core hc hcfg)

/-- An instruction that is none of the six writing opcodes writes no cell. -/
theorem exec_cellsKept {i : Instr} {s t : State} (h : exec i s = .next t)
    (hi : i ∉ [Instr.inc, .dec, .cinc, .cdec, .inp, .swap]) : CellsKept s t := by
  obtain hc | ⟨hw, -⟩ | ⟨hw, -⟩ := exec_core_cases h
  · exact .of_core hc (exec_controller h).1
  · exact absurd (List.mem_append_left [Instr.cinc, .cdec, .inp, .swap] hw) hi
  · exact absurd (List.mem_append_right [Instr.inc, .dec] hw) hi

/-- Settles O35, from what an instruction leaves in the core. -/
theorem stepWritesAtMostTheCharacterAtCP : Obligations.StepWritesAtMostTheCharacterAtCP :=
  fun _ _ _ h => ⟨exec_cellsKeptButChar h, exec_cellsKept h⟩

end Sys2Proof.Machine
end

section
/-! PROOFS. Encoding and program text (spec/30_encoding.md): whole cell sequences, the characters
and bytes that are recognised, and the cells of a load. -/

namespace Sys2Proof

/-! ### Cell sequences -/

/-- Settles O1: each word of the map is the opcode of its instruction. -/
theorem everyCellValueDecodesByTheMap : Obligations.EveryCellValueDecodesByTheMap :=
  ⟨decode_opcode .halt, decode_opcode .next, decode_opcode .prev, decode_opcode .next2,
    decode_opcode .prev2, decode_opcode .inc, decode_opcode .dec, decode_opcode .cinc,
    decode_opcode .cdec, decode_opcode .out, decode_opcode .inp, decode_opcode .opn,
    decode_opcode .close, decode_opcode .copen, decode_opcode .cclose, decode_opcode .swap⟩

/-- A sequence is decoded cell by cell (R70). -/
theorem decodeAll_eq_map (cells : List Nibble) : decodeAll cells = cells.map decode := by
  induction cells with
  | nil => rfl
  | cons c rest ih => rw [decodeAll, ih, List.map_cons]

/-- A sequence is encoded one opcode an instruction (R70). -/
theorem encodeAll_eq_map (is : List Instr) : encodeAll is = is.map opcode :=
  List.flatMap_pure_eq_map opcode is

/-- The cells of a sequence of instructions decode to it (R72). -/
@[simp] theorem decodeAll_encodeAll (is : List Instr) : decodeAll (encodeAll is) = is := by
  rw [encodeAll_eq_map, decodeAll_eq_map, List.map_map]
  exact List.map_id'' decode_opcode is

/-- The instructions a cell sequence decodes to encode to it (R72, R73). -/
@[simp] theorem encodeAll_decodeAll (cells : List Nibble) :
    encodeAll (decodeAll cells) = cells := by
  rw [encodeAll_eq_map, decodeAll_eq_map, List.map_map]
  exact List.map_id'' opcode_decode cells

/-- Every instruction is one cell long (R70). -/
@[simp] theorem encodeAll_length (is : List Instr) : (encodeAll is).length = is.length := by
  rw [encodeAll_eq_map, List.length_map]

/-- Reading one encoded instruction leaves the cells after it (R70). -/
theorem decodeCells_encode_append (i : Instr) (rest : List Nibble) :
    decodeCells (encode i ++ rest) = .ok (i, rest) := by
  rw [encode, List.singleton_append, decodeCells_cons, decode_opcode]

/-- Settles O2, from the round trips of one cell. -/
theorem codeSequencesRoundTrip : Obligations.CodeSequencesRoundTrip :=
  ⟨fun is => ⟨decodeAll_encodeAll is, encodeAll_length is⟩, encodeAll_decodeAll,
    decodeCells_encode_append⟩

/-! ### Characters and bytes -/

/-- A character is recognised exactly when it is a symbol (R75, R76). -/
theorem ofSymbol_eq_some_iff (ch : Char) (i : Instr) : ofSymbol ch = some i ↔ ch = symbol i :=
  ⟨fun h => (symbol_of_ofSymbol h).symm, fun h => h ▸ ofSymbol_symbol i⟩

/-- The code of each symbol is recognised as its instruction (R78). -/
@[simp] theorem ofByte_asciiCode (i : Instr) : ofByte (asciiCode i) = some i := by
  cases i <;> decide

/-- A byte is recognised exactly when it is the code of a symbol (R78). -/
theorem ofByte_eq_some_iff (b : Byte) (i : Instr) : ofByte b = some i ↔ b = asciiCode i := by
  constructor
  · intro h
    have hcode : asciiCode i = b := by simpa using List.find?_some h
    exact hcode.symm
  · rintro rfl
    exact ofByte_asciiCode i

/-- The code of a symbol is its character's (R78). -/
theorem symbol_eq_ofNat_asciiCode (i : Instr) : symbol i = Char.ofNat (asciiCode i).toNat := by
  cases i <;> rfl

/-- Different bytes are the codes of different characters. -/
theorem charOfByte_inj {b c : Byte} : Char.ofNat b.toNat = Char.ofNat c.toNat ↔ b = c := by
  have hcode (x : Byte) : (Char.ofNat x.toNat).toNat = x.toNat := by
    have hx := x.isLt
    rw [Char.toNat_ofNat, if_pos (.inl (by omega))]
  constructor
  · intro h
    exact BitVec.eq_of_toNat_eq (by rw [← hcode b, h, hcode c])
  · rintro rfl; rfl

/-- A byte is recognised as the character it is the code of (R78). -/
theorem ofSymbol_charOfByte (b : Byte) : ofSymbol (Char.ofNat b.toNat) = ofByte b :=
  Option.ext fun i => by
    rw [ofSymbol_eq_some_iff, ofByte_eq_some_iff, symbol_eq_ofNat_asciiCode, charOfByte_inj]

/-- A text received as bytes is recognised byte by byte (R78). -/
theorem recognise_textOfBytes (bs : List Byte) :
    recognise (textOfBytes bs) = bs.filterMap ofByte := by
  rw [recognise, textOfBytes, List.filterMap_map]
  exact congrArg (List.filterMap · bs) (funext ofSymbol_charOfByte)

/-- Settles O3. -/
theorem onlyTheSixteenSymbolsAreRecognised : Obligations.OnlyTheSixteenSymbolsAreRecognised :=
  ⟨ofSymbol_eq_some_iff, ofByte_eq_some_iff, recognise_textOfBytes⟩

/-! ### Printing -/

/-- The cells of a sequence of instructions are printed as its symbols (R79). -/
theorem listing_encodeAll (is : List Instr) : listing (encodeAll is) = is.map symbol := by
  rw [listing, encodeAll_eq_map, List.map_map]
  exact List.map_congr_left fun i _ => congrArg symbol (decode_opcode i)

/-- The symbols of the recognised instructions are the recognised characters (R75, R76). -/
theorem map_symbol_recognise (p : Program) :
    (recognise p).map symbol = p.filter (fun ch => (ofSymbol ch).isSome) := by
  induction p with
  | nil => rfl
  | cons ch rest ih =>
    cases h : ofSymbol ch with
    | none => rw [recognise_cons_none h, ih, List.filter_cons_of_neg (by simp [h])]
    | some i =>
      rw [recognise_cons_some h, List.map_cons, ih, symbol_of_ofSymbol h,
        List.filter_cons_of_pos (by simp [h])]

end Sys2Proof

namespace Sys2Proof.Machine

/-! ### The cells of a load -/

/-- The addresses of a load after its first are those of the load from the cursor's next value. -/
theorem next_cursor_add_mod (n o j : Nat) : ((o + 1) % n + j) % n = (o + (j + 1)) % n := by
  rw [Nat.mod_add_mod, Nat.add_assoc, Nat.add_comm 1 j]

/-- A load changes no cell it does not cover (R201). -/
theorem loadFrom_get_outside {n a : Nat} (p : Program) (m : Memory) (o k : Nat)
    (ha : OutsideLoad n o (recognise p).length a) : (loadFrom n p m o k).core.get a = m.get a := by
  induction p generalizing m o k with
  | nil => rfl
  | cons ch rest ih =>
    cases h : ofSymbol ch with
    | none =>
      rw [recognise_cons_none h] at ha
      rw [loadFrom_cons_none h, ih _ _ _ ha]
    | some i =>
      rw [recognise_cons_some h, List.length_cons] at ha
      have hfirst : o % n ≠ a := ha 0 (by omega)
      have hrest : OutsideLoad n ((o + 1) % n) (recognise rest).length a := fun j hj => by
        rw [next_cursor_add_mod]
        exact ha (j + 1) (by omega)
      rw [loadFrom_cons_some h, ih _ _ _ hrest, Memory.get_set, if_neg hfirst.symm]

/-- A load leaves at each address it covers the opcode last written there: the cell of the first
symbol is kept by the rest of the load unless the rest covers it again (R201). -/
theorem loadFrom_holdsProgram (n : Nat) (p : Program) (m : Memory) (o k : Nat) :
    HoldsProgram (loadFrom n p m o k).core.get n o (recognise p) := by
  induction p generalizing m o k with
  | nil => intro j i hi; simp [recognise] at hi
  | cons ch rest ih =>
    cases h : ofSymbol ch with
    | none => rw [recognise_cons_none h, loadFrom_cons_none h]; exact ih _ _ _
    | some i =>
      rw [recognise_cons_some h, loadFrom_cons_some h]
      intro j x hx hlast
      rw [List.length_cons] at hlast
      cases j with
      | zero =>
        obtain rfl : i = x := by simpa using hx
        have hkept : OutsideLoad n ((o + 1) % n) (recognise rest).length (o % n) := fun j hj => by
          rw [next_cursor_add_mod]
          exact hlast (j + 1) (by omega) (by omega)
        rw [Nat.add_zero o, loadFrom_get_outside _ _ _ _ hkept, Memory.get_set, if_pos rfl]
      | succ j =>
        have hrest := ih (m.set (o % n) (opcode i)) ((o + 1) % n) (k + 1) j x (by simpa using hx)
        simp only [next_cursor_add_mod] at hrest
        exact hrest fun j' hj hj' => hlast (j' + 1) (by omega) (by omega)

/-- A program no longer than the core, held from address 0, is held cell by cell. -/
theorem HoldsProgram.cells_eq_encodeAll {get : Nat → Nibble} {n : Nat} {is : List Instr}
    (h : HoldsProgram get n 0 is) (hlen : is.length ≤ n) :
    (List.range is.length).map get = encodeAll is := by
  rw [encodeAll_eq_map]
  refine List.ext_getElem (by simp) fun a ha _ => ?_
  replace ha : a < is.length := by simpa using ha
  have hmod {b : Nat} (hb : b < is.length) : (0 + b) % n = b := by
    rw [Nat.zero_add, Nat.mod_eq_of_lt (by omega)]
  have hcell := h a is[a] (List.getElem?_eq_getElem ha) fun b hab hb => by
    rw [hmod hb, hmod ha]; omega
  rw [hmod ha] at hcell
  rw [List.getElem_map, List.getElem_map, List.getElem_range, hcell]

/-- Settles O4: the cells of the load are the encoding of the recognised instructions, and printing
those gives the characters they were recognised from. -/
theorem listingALoadReproducesTheText : Obligations.ListingALoadReproducesTheText := by
  intro n p m _ hlen
  have hcells : (List.range (programLength p)).map (fun a => (load n p m 0).core.get a) =
      encodeAll (recognise p) :=
    (loadFrom_holdsProgram n p m 0 0).cells_eq_encodeAll hlen
  rw [hcells, listing_encodeAll, map_symbol_recognise]

end Sys2Proof.Machine
end


section
/-! PROOFS. The step (spec/40_step.md): what each instruction answers, what it can do to the agent
table, what of the table it reads, and the transitions that perform one instruction or none. -/

namespace Sys2Proof.Machine

/-! ### What the instructions with a condition answer -/

/-- OPEN jumps on a zero cell (R137). -/
theorem exec_opn (s : State) :
    exec .opn s = .next (if cellIsZero s then jump s .fwd .cell else advanceEP s) :=
  (apply_ite Host.Outcome.next _ _ _).symm

/-- CLOSE jumps on a nonzero cell (R138). -/
theorem exec_close (s : State) :
    exec .close s = .next (if cellIsZero s then advanceEP s else jump s .bwd .cell) :=
  (apply_ite Host.Outcome.next _ _ _).symm

/-- COPEN jumps on a zero character (R139). -/
theorem exec_copen (s : State) :
    exec .copen s = .next (if charIsZero s then jump s .fwd .char else advanceEP s) :=
  (apply_ite Host.Outcome.next _ _ _).symm

/-- CCLOSE jumps on a nonzero character (R140). -/
theorem exec_cclose (s : State) :
    exec .cclose s = .next (if charIsZero s then advanceEP s else jump s .bwd .char) :=
  (apply_ite Host.Outcome.next _ _ _).symm

/-- OUT emits in SINGLE mode only (R120, R123). -/
theorem exec_out (s : State) :
    exec .out s =
      .next (advanceEP (if s.cfg.mode = .single then outWrite s (charAtCP s) else s)) := by
  cases hm : s.cfg.mode <;> simp [exec, execOut, hm]

/-- IN reads the channel in SINGLE mode only (R121, R123). -/
theorem exec_inp (s : State) :
    exec .inp s = .next (advanceEP
      (if s.cfg.mode = .single then setCharAtCP (inConsume s) (inValue s) else s)) := by
  cases hm : s.cfg.mode <;> simp [exec, execIn, hm]

/-- SWAP exchanges in SINGLE mode only (R122, R123). -/
theorem exec_swap (s : State) :
    exec .swap s = .next (advanceEP
      (if s.cfg.mode = .single then setBuffer (setCharAtCP s s.buffer) (charAtCP s) else s)) := by
  cases hm : s.cfg.mode <;> simp [exec, execSwap, hm]

/-- Every instruction ends in a next state (R96). -/
theorem exec_total (i : Instr) (s : State) : ∃ t, exec i s = .next t := by
  cases i with
  | halt | next | prev | next2 | prev2 | inc | dec | cinc | cdec => exact ⟨_, rfl⟩
  | out => exact ⟨_, exec_out s⟩
  | inp => exact ⟨_, exec_inp s⟩
  | opn => exact ⟨_, exec_opn s⟩
  | close => exact ⟨_, exec_close s⟩
  | copen => exact ⟨_, exec_copen s⟩
  | cclose => exact ⟨_, exec_cclose s⟩
  | swap => exact ⟨_, exec_swap s⟩

/-- Settles O32. -/
theorem noInstructionFaultsOrIsRefused : Obligations.NoInstructionFaultsOrIsRefused := exec_total

/-! ### What an instruction does to the agent table, in a core of any size -/

/-- A core that has an agent's pointers in it is not empty, so EP may be set in a core of any
size. -/
theorem PointerMove.setEP_any (n : Nat) (x : Int) :
    PointerMove n (fun a => { a with ep := wrap n x }) :=
  ⟨fun _ => rfl, fun a ha => (PointerMove.setEP (Nat.zero_lt_of_lt ha.1) x).inCore a ha⟩

/-- As `PointerMove.setEP_any`, for CP. -/
theorem PointerMove.setCP_any (n : Nat) (x : Int) :
    PointerMove n (fun a => { a with cp := wrap n x }) :=
  ⟨fun _ => rfl, fun a ha => (PointerMove.setCP (Nat.zero_lt_of_lt ha.1) x).inCore a ha⟩

/-- The halt causes an instruction can raise (R30, R130, R134). -/
def Raises (i : Instr) (c : HaltCause) : Prop :=
  i = .halt ∧ c = .haltOp ∨ i ∈ bracketInstrs ∧ c = .unmatched

/-- What an instruction can do to the agent table: move the stepping agent's pointers, or halt it
with a cause of its own (R98, R99, R161). -/
theorem exec_moves_or_halts {i : Instr} {s t : State} (h : exec i s = .next t) :
    (∃ f, PointerMove s.cfg.coreSize f ∧ t.agents = s.agents.modify (cur s) f) ∨
      ∃ c, Raises i c ∧ t = takeHalt s c := by
  cases exec_shape h with
  | move _ k =>
    exact .inl ⟨_, (PointerMove.setEP_any ..).comp (.setCP_any ..), List.modify_modify_eq ..⟩
  | jump _ d f q =>
    exact .inl ⟨_, (PointerMove.setEP_any ..).comp (.setEP_any ..), List.modify_modify_eq ..⟩
  | cell | char | out | inp | swap | noOp | notTaken => exact .inl ⟨_, .setEP_any .., rfl⟩
  | unmatched _ _ _ hi => exact .inr ⟨.unmatched, .inr ⟨hi, rfl⟩, rfl⟩
  | halt => exact .inr ⟨.haltOp, .inl ⟨rfl, rfl⟩, rfl⟩

/-- An instruction changes the stepping agent's entry and no other, and of that entry neither score
nor start nor len (R99, R98). -/
theorem exec_modifies_cur {i : Instr} {s t : State} (h : exec i s = .next t) :
    ∃ f : Agent → Agent, t.agents = s.agents.modify (cur s) f ∧
      ∀ a, ((f a).score, (f a).start, (f a).len) = (a.score, a.start, a.len) := by
  obtain ⟨f, hf, ht⟩ | ⟨c, -, rfl⟩ := exec_moves_or_halts h
  · exact ⟨f, ht, fun a => by rw [hf.keeps a]⟩
  · exact ⟨_, rfl, fun _ => rfl⟩

/-- A change of one entry keeps of every entry what it keeps of that one. -/
theorem map_modify_of_keeps {β : Type} {g : Agent → β} {f : Agent → Agent} (l : List Agent) (k : Nat)
    (h : ∀ a, g (f a) = g a) : (l.modify k f).map g = l.map g := by
  refine List.ext_getElem? fun j => ?_
  rw [List.getElem?_map, List.getElem?_modify, List.getElem?_map]
  cases l[j]? with
  | none => rfl
  | some a =>
    refine congrArg some ?_
    show g (if k = j then f a else a) = g a
    split
    · exact h a
    · rfl

/-- The stepping agent is the same after an instruction. -/
theorem exec_cur {i : Instr} {s t : State} (h : exec i s = .next t) : cur t = cur s := by
  rw [exec_frame h]; rfl

/-- Only SWAP writes Buffer (R27, R122). -/
theorem exec_buffer {i : Instr} {s t : State} (h : exec i s = .next t) (hi : i ≠ .swap) :
    t.buffer = s.buffer := by
  cases exec_shape h with
  | swap => exact absurd rfl hi
  | move | cell | char | out | inp | noOp | notTaken | jump | unmatched | halt => rfl

/-- Only OUT writes the output channel (R120, R170). -/
theorem exec_output {i : Instr} {s t : State} (h : exec i s = .next t) (hi : i ≠ .out) :
    t.output = s.output := by
  cases exec_shape h with
  | out => exact absurd rfl hi
  | move | cell | char | inp | swap | noOp | notTaken | jump | unmatched | halt => rfl

/-- Only IN moves the input position (R121, R171). -/
theorem exec_inPos {i : Instr} {s t : State} (h : exec i s = .next t) (hi : i ≠ .inp) :
    t.inPos = s.inPos := by
  cases exec_shape h with
  | inp => exact absurd rfl hi
  | move | cell | char | out | swap | noOp | notTaken | jump | unmatched | halt => rfl

/-- Settles O36. -/
theorem instructionsKeepScoresStartsAndLengths :
    Obligations.InstructionsKeepScoresStartsAndLengths := by
  intro i s t h
  obtain ⟨f, ht, hf⟩ := exec_modifies_cur h
  exact ⟨ht ▸ map_modify_of_keeps _ _ hf, exec_buffer h, exec_output h, exec_inPos h⟩

/-! ### A step that halts its agent -/

/-- A halt leaves what `afterHalt` says (R161). -/
theorem takeHalt_eq_afterHalt {s : State} {a : Agent} (c : HaltCause)
    (h : s.agents[cur s]? = some a) : takeHalt s c = afterHalt s a c := by
  cases hm : s.cfg.mode with
  | single => rw [takeHalt_single c hm h]; simp only [afterHalt, hm, withCur]
  | arena => rw [takeHalt_arena c hm h]; simp only [afterHalt, hm, withCur]

/-- The stepping agent's entry after an instruction that changes it by `f`. -/
theorem modify_cur_eq_some {s : State} {a b : Agent} {f : Agent → Agent}
    (ha : s.agents[cur s]? = some a) (hb : (s.agents.modify (cur s) f)[cur s]? = some b) :
    b = f a := by
  rw [List.getElem?_modify_eq, ha] at hb
  exact (Option.some.inj hb).symm

/-- Settles O34: a pointer move records no cause, so the instruction took a halt. -/
theorem haltingStepsKeepEverythingElse : Obligations.HaltingStepsKeepEverythingElse := by
  intro i s t a b h ha hb hnone hcause
  obtain ⟨f, hf, ht⟩ | ⟨c, hc, rfl⟩ := exec_moves_or_halts h
  · obtain rfl := modify_cur_eq_some ha (ht ▸ hb)
    exact absurd ((hf.haltCause_eq a).trans hnone) hcause
  · obtain rfl := modify_cur_eq_some ha hb
    exact ⟨takeHalt_eq_afterHalt c ha, .of_core rfl rfl, rfl, rfl, hc⟩

/-! ### What an instruction reads of the agent table -/

/-- An entry after its change depends on the entry before only. -/
theorem getElem?_modify_congr {l l' : List Agent} {k : Nat} (h : l'[k]? = l[k]?)
    (f : Agent → Agent) : (l'.modify k f)[k]? = (l.modify k f)[k]? := by
  rw [List.getElem?_modify_eq, List.getElem?_modify_eq, h]

/-- The states that differ from `s` in the agent table only, and there not in the stepping agent's
entry (R99). -/
inductive SameForCur (s : State) : State → Prop
  | mk (others : List Agent) :
      others[cur s]? = s.agents[cur s]? → SameForCur s { s with agents := others }

namespace SameForCur

variable {s u : State} (h : SameForCur s u)
include h

/-! What an instruction reads is the same in both states. -/

theorem cfg_eq : u.cfg = s.cfg := by cases h; rfl
theorem core_eq : u.core = s.core := by cases h; rfl
theorem buffer_eq : u.buffer = s.buffer := by cases h; rfl
theorem inValue_eq : inValue u = inValue s := by cases h; rfl
theorem memRead_eq (x : Int) : memRead u x = memRead s x := by cases h; rfl

theorem curAgent_eq : curAgent u = curAgent s := by
  obtain ⟨others, he⟩ := h
  show others.getD (cur s) Agent.fresh = s.agents.getD (cur s) Agent.fresh
  rw [List.getD_eq_getElem?_getD, List.getD_eq_getElem?_getD, he]

theorem fetch_eq : fetch u = fetch s := by
  rw [fetch, fetchAddress, h.curAgent_eq, h.memRead_eq]; rfl

theorem cellAtCP_eq : cellAtCP u = cellAtCP s := by
  rw [cellAtCP, h.curAgent_eq, h.memRead_eq]; rfl

theorem charAtCP_eq : charAtCP u = charAtCP s := by
  rw [charAtCP, readChar, h.curAgent_eq, h.memRead_eq, h.memRead_eq]; rfl

theorem cellIsZero_eq : cellIsZero u = cellIsZero s := by
  rw [cellIsZero, h.cellAtCP_eq]; rfl

theorem charIsZero_eq : charIsZero u = charIsZero s := by
  rw [charIsZero, h.charAtCP_eq]; rfl

theorem resolve_eq (d : Dir) (f : Family) : resolve u d f = resolve s d f := by
  have hscan := scan_congr h.core_eq h.cfg_eq d f
  rw [resolve, hscan, h.curAgent_eq, h.cfg_eq]; rfl

/-! Each shared operation, applied to both states, leaves them so. -/

theorem updCur (f : Agent → Agent) : SameForCur (updCur s f) (updCur u f) := by
  obtain ⟨others, he⟩ := h; exact ⟨_, getElem?_modify_congr he f⟩

theorem takeHalt (c : HaltCause) : SameForCur (takeHalt s c) (takeHalt u c) := by
  obtain ⟨others, he⟩ := h; exact ⟨_, getElem?_modify_congr he (haltAgent s.cfg.mode c)⟩

theorem memWrite (x : Int) (v : Nibble) : SameForCur (memWrite s x v) (memWrite u x v) := by
  obtain ⟨others, he⟩ := h; exact ⟨others, he⟩

theorem setBuffer (b : Byte) : SameForCur (setBuffer s b) (setBuffer u b) := by
  obtain ⟨others, he⟩ := h; exact ⟨others, he⟩

theorem outWrite (b : Byte) : SameForCur (outWrite s b) (outWrite u b) := by
  obtain ⟨others, he⟩ := h; exact ⟨others, he⟩

theorem inConsume : SameForCur (inConsume s) (inConsume u) := by
  obtain ⟨others, he⟩ := h; exact ⟨others, he⟩

theorem setEP (x : Int) : SameForCur (setEP s x) (setEP u x) := by
  rw [Machine.setEP, Machine.setEP, h.cfg_eq]; exact h.updCur _

theorem moveCP (k : Int) : SameForCur (moveCP s k) (moveCP u k) := by
  rw [Machine.moveCP, Machine.moveCP, setCP, setCP, h.cfg_eq, h.curAgent_eq]; exact h.updCur _

theorem advanceEP : SameForCur (advanceEP s) (advanceEP u) := by
  rw [Machine.advanceEP, Machine.advanceEP, h.curAgent_eq]; exact h.setEP _

theorem setCellAtCP (v : Nibble) : SameForCur (setCellAtCP s v) (setCellAtCP u v) := by
  rw [Machine.setCellAtCP, Machine.setCellAtCP, h.curAgent_eq]; exact h.memWrite _ _

theorem setCharAtCP (b : Byte) : SameForCur (setCharAtCP s b) (setCharAtCP u b) := by
  rw [Machine.setCharAtCP, Machine.setCharAtCP, h.curAgent_eq]
  exact (h.memWrite _ _).memWrite _ _

theorem jump (d : Dir) (f : Family) : SameForCur (jump s d f) (jump u d f) := by
  have hr := h.resolve_eq d f
  cases hs : resolve s d f with
  | none => rw [jump_of_none hs, jump_of_none (hr.trans hs)]; exact h.takeHalt _
  | some q =>
    simp only [Machine.jump, hr, hs]
    exact (h.setEP q).advanceEP

end SameForCur

/-- Two pairs of such states, one of them taken on a condition common to both sides. -/
theorem SameForCur.ite {p : Prop} [Decidable p] {s u s' u' : State} (h : SameForCur s u)
    (h' : SameForCur s' u') : SameForCur (if p then s else s') (if p then u else u') := by
  split
  · exact h
  · exact h'

/-- From states that differ only in other agents' entries an instruction answers two such states
(R99). -/
theorem SameForCur.exec {s u : State} (h : SameForCur s u) (i : Instr) :
    ∃ t v, exec i s = .next t ∧ exec i u = .next v ∧ SameForCur t v := by
  cases i with
  | halt => exact ⟨_, _, rfl, rfl, h.takeHalt _⟩
  | next | prev | next2 | prev2 => exact ⟨_, _, rfl, rfl, (h.moveCP _).advanceEP⟩
  | inc | dec =>
    refine ⟨_, _, rfl, rfl, ?_⟩
    rw [h.cellAtCP_eq]
    exact (h.setCellAtCP _).advanceEP
  | cinc | cdec =>
    refine ⟨_, _, rfl, rfl, ?_⟩
    rw [h.charAtCP_eq]
    exact (h.setCharAtCP _).advanceEP
  | out =>
    refine ⟨_, _, exec_out s, exec_out u, ?_⟩
    rw [h.cfg_eq, h.charAtCP_eq]
    exact (ite (h.outWrite _) h).advanceEP
  | inp =>
    refine ⟨_, _, exec_inp s, exec_inp u, ?_⟩
    rw [h.cfg_eq, h.inValue_eq]
    exact (ite (h.inConsume.setCharAtCP _) h).advanceEP
  | opn =>
    refine ⟨_, _, exec_opn s, exec_opn u, ?_⟩
    rw [h.cellIsZero_eq]
    exact ite (h.jump _ _) h.advanceEP
  | close =>
    refine ⟨_, _, exec_close s, exec_close u, ?_⟩
    rw [h.cellIsZero_eq]
    exact ite h.advanceEP (h.jump _ _)
  | copen =>
    refine ⟨_, _, exec_copen s, exec_copen u, ?_⟩
    rw [h.charIsZero_eq]
    exact ite (h.jump _ _) h.advanceEP
  | cclose =>
    refine ⟨_, _, exec_cclose s, exec_cclose u, ?_⟩
    rw [h.charIsZero_eq]
    exact ite h.advanceEP (h.jump _ _)
  | swap =>
    refine ⟨_, _, exec_swap s, exec_swap u, ?_⟩
    rw [h.cfg_eq, h.charAtCP_eq, h.buffer_eq]
    exact (ite ((h.setCharAtCP _).setBuffer _) h).advanceEP

/-- Settles O33: an instruction modifies the one entry, and cannot tell apart states that agree in
it. -/
theorem stepTouchesNoOtherAgent : Obligations.StepTouchesNoOtherAgent := by
  refine ⟨fun i s t h => ?_, fun i s a others ha ho => ?_⟩
  · obtain ⟨f, ht, -⟩ := exec_modifies_cur h
    rw [ht]
    exact ⟨List.length_modify .., fun j hj => List.getElem?_modify_ne _ _ hj.symm⟩
  · have hsame : SameForCur s { s with agents := others } := ⟨others, ho.trans ha.symm⟩
    obtain ⟨t, _, ht, hu, others', he⟩ := hsame.exec i
    exact ⟨hsame.fetch_eq, t, _, ht, hu, exec_cur ht ▸ he, rfl⟩

/-! ### Transitions that perform an instruction -/

/-- What the stepping agent fetches (R91). -/
theorem fetch_of_some {s : State} {a : Agent} (h : s.agents[cur s]? = some a) :
    fetch s = memRead s a.ep := by
  rw [fetch, fetchAddress, curAgent_of_some h]

/-- A booted SINGLE run goes through the loop of R164. -/
theorem step_of_single_booted {s : State} (hm : s.cfg.mode = .single) (hn : 2 ≤ s.cfg.coreSize)
    (hp : s.phase = .running) : step s = runSingle s := by
  simp only [step, hm, singleStep, if_neg (Nat.not_lt.mpr hn), hp]

/-- A SINGLE run under way, within its budget, gives agent 0 a step and counts it (R164, R165). -/
theorem runSingle_of_running {s : State} (hr : s.runStatus = .running)
    (hi : s.iter < s.cfg.maxIter) :
    runSingle s = mapNext countIter (exec (decode (fetch s)) s) := by
  simp only [runSingle, hr, if_neg (Nat.not_le.mpr hi), stepAgent]

/-- Settles O37. -/
theorem singleTransitionRunsTheFetchedInstruction :
    Obligations.SingleTransitionRunsTheFetchedInstruction := by
  rintro s a i hm hn hp hr hi ha rfl -
  have hcur : s.agents[cur s]? = some a := by rwa [cur_of_single hm]
  obtain ⟨t, ht⟩ := exec_total (decode (memRead s a.ep)) s
  refine ⟨t, ht, ?_⟩
  obtain ⟨-, hiter, -⟩ := exec_controller ht
  rw [step_of_single_booted hm hn hp, runSingle_of_running hr hi, fetch_of_some hcur, ht, ← hiter]
  rfl

/-- The test before a pass passes exactly where R186 says. -/
theorem passWanted_iff {s : State} :
    passWanted s = true ↔ s.cycle < s.cfg.cycleLimit ∧ 1 < s.agents.countP (fun b => b.alive) := by
  rw [passWanted, aliveCount, Bool.and_eq_true, decide_eq_true_eq, decide_eq_true_eq]

/-- In a pass an arena's transition is one turn (R184, R186). -/
theorem step_of_arena_pass {s : State} (hm : s.cfg.mode = .arena) (hr : s.arenaStatus = .running)
    (hp : s.phase = .running) (hw : s.turn = 0 → passWanted s = true) : step s = turnStep s := by
  have hgo : ¬(s.turn = 0 ∧ passWanted s = false) := fun ⟨h0, hf⟩ =>
    Bool.false_ne_true (hf.symm.trans (hw h0))
  simp only [step, hm, arenaStep, hr, hp, runRound, if_neg hgo]

/-- A living agent's turn is a step of its own (R184). -/
theorem turnStep_of_alive {s : State} {a : Agent} (h : s.agents[cur s]? = some a)
    (ha : a.alive = true) : turnStep s = mapNext nextTurn (exec (decode (fetch s)) s) := by
  have hcur : curAlive s = true := by rwa [curAlive, curAgent_of_some h]
  rw [turnStep, if_pos hcur, stepAgent]

/-- In ARENA mode the stepping agent is the one at TURN of the round's turn order (R183). -/
theorem cur_of_arena {s : State} (hm : s.cfg.mode = .arena) :
    cur s = (s.round + s.turn) % s.cfg.programs.length := by
  simp only [cur, hm, turnOrder, agentCount]

/-- Settles O38. -/
theorem arenaTransitionRunsTheFetchedInstruction :
    Obligations.ArenaTransitionRunsTheFetchedInstruction := by
  rintro s a i hm hr hp ha halive hw rfl -
  have hcur := cur_of_arena hm
  rw [← hcur] at ha
  obtain ⟨t, ht⟩ := exec_total (decode (memRead s a.ep)) s
  have hstep : step s = .next (nextTurn t) := by
    rw [step_of_arena_pass hm hr hp fun h0 => passWanted_iff.mpr (hw h0),
      turnStep_of_alive ha halive, fetch_of_some ha, ht]
    rfl
  obtain ⟨hcfg, -, hturn, hcycle, -⟩ := exec_controller ht
  have hcount : agentCount t.cfg = s.cfg.programs.length := by rw [hcfg, agentCount_of_arena hm]
  refine ⟨hcur, t, ht, fun hlt => ?_, fun hle => ?_⟩
  · rw [hstep, nextTurn_of_lt (by rwa [hcount, hturn]), hturn]
  · rw [hstep, nextTurn_of_le (by rwa [hcount, hturn]), hcycle]

/-! ### Runs that have ended -/

/-- A HALTED or STOPPED run has no step (R162, R164). -/
theorem runSingle_of_ended {s : State} (hr : s.runStatus ≠ .running) :
    runSingle s = .fault .runOver := by
  cases hs : s.runStatus with
  | running => exact absurd hs hr
  | halted | stopped => simp only [runSingle, hs]

/-- An arena that is DONE or CONFIG_ERROR has no step (R190). -/
theorem arenaStep_of_ended {s : State} (h : s.arenaStatus = .done ∨ s.arenaStatus = .configError) :
    arenaStep s = .fault .runOver := by
  obtain hs | hs := h <;> simp only [arenaStep, hs]

/-- Settles O41, by the mode. -/
theorem endedRunsHaveNoStep : Obligations.EndedRunsHaveNoStep := by
  intro s hn hfin
  cases hm : s.cfg.mode with
  | single =>
    simp only [Finished, hm] at hfin
    obtain ⟨hp, hr⟩ := hfin
    rw [step_of_single_booted hm (hn hm) hp, runSingle_of_ended hr]
  | arena =>
    simp only [Finished, hm] at hfin
    simp only [step, hm, arenaStep_of_ended hfin]

end Sys2Proof.Machine
end


section
/-! PROOFS. The cell-pointer instructions (spec/41_pointer.md): the four are one move of CP, each by
an offset of its own, so what a move leaves and how two moves add up is said once. -/

namespace Sys2Proof.Machine

/-! ### One move -/

/-- By how much a cell-pointer instruction moves CP (R100 to R103); no other instruction does. -/
def cpOffset : Instr → Option Int
  | .next => some 1
  | .prev => some (-1)
  | .next2 => some 2
  | .prev2 => some (-2)
  | .halt | .inc | .dec | .cinc | .cdec | .out | .inp | .opn | .close | .copen | .cclose | .swap =>
    none

/-- The stepping agent's entry `a` after a move of CP by `k`, EP advanced (R93, R100 to R103). -/
def movedEntry (s : State) (a : Agent) (k : Int) : Agent :=
  epAfter s { a with cp := wrap s.cfg.coreSize (a.cp + k) } a.ep

/-- A cell-pointer instruction moves CP by its offset and advances EP. -/
theorem exec_of_cpOffset {i : Instr} {k : Int} (hi : cpOffset i = some k) (s : State) :
    exec i s = .next (advanceEP (moveCP s k)) := by
  cases i with
  | next | prev | next2 | prev2 => obtain rfl := Option.some.inj hi; rfl
  | halt | inc | dec | cinc | cdec | out | inp | opn | close | copen | cclose | swap => cases hi

/-- A table that has the stepping agent's entry reads back the entry set for it. -/
theorem withCur_getElem?_cur {s : State} {a : Agent} (b : Agent) (h : s.agents[cur s]? = some a) :
    (withCur s b)[cur s]? = some b :=
  List.getElem?_set_self (List.getElem?_eq_some_iff.mp h).1

/-- What a move of CP alone leaves (R24). -/
theorem moveCP_eq {s : State} {a : Agent} (k : Int) (h : s.agents[cur s]? = some a) :
    moveCP s k =
      { s with agents := withCur s { a with cp := wrap s.cfg.coreSize (a.cp + k) } } := by
  rw [moveCP, setCP, updCur_eq _ h, curAgent_of_some h]; rfl

/-- A move of CP and the advance change the stepping agent's entry and nothing else (R98, R99). -/
theorem advanceEP_moveCP_eq {s : State} {a : Agent} (k : Int) (h : s.agents[cur s]? = some a) :
    advanceEP (moveCP s k) = { s with agents := withCur s (movedEntry s a k) } := by
  rw [moveCP_eq k h, advanceEP_eq (withCur_getElem?_cur _ h)]
  exact congrArg (fun l => { s with agents := l }) (List.set_set ..)

/-- A cell-pointer instruction completes, with every cell kept and CP at its residue `c`. -/
theorem exec_moves_cp {i : Instr} {k : Int} {s : State} {a : Agent} {c : Nat}
    (hi : cpOffset i = some k) (h : s.agents[cur s]? = some a)
    (hc : wrap s.cfg.coreSize (a.cp + k) = c) :
    ∃ t, exec i s = .next t ∧ CellsKept s t ∧
      t = { s with agents := withCur s (epAfter s { a with cp := c } a.ep) } :=
  ⟨_, exec_of_cpOffset hi s, .of_core rfl rfl, hc ▸ advanceEP_moveCP_eq k h⟩

/-- Settles O9. -/
theorem nextMovesCellPointerForwardByOne : Obligations.NextMovesCellPointerForwardByOne :=
  fun _ a h => exec_moves_cp rfl h (wrap_natCast_add_one _ a.cp)

/-- Settles O10. -/
theorem prevMovesCellPointerBackByOne : Obligations.PrevMovesCellPointerBackByOne :=
  fun _ a hn h => exec_moves_cp rfl h (wrap_natCast_sub a.cp 1 (by omega))

/-- Settles O11. -/
theorem next2MovesCellPointerForwardByTwo : Obligations.Next2MovesCellPointerForwardByTwo :=
  fun _ a h => exec_moves_cp rfl h (wrap_natCast_add_two _ a.cp)

/-- Settles O12. -/
theorem prev2MovesCellPointerBackByTwo : Obligations.Prev2MovesCellPointerBackByTwo :=
  fun _ a hn h => exec_moves_cp rfl h (wrap_natCast_sub a.cp 2 hn)

/-! ### Moves one after the other -/

/-- After a move the table has the stepping agent's moved entry. -/
theorem agents_cur_move {s : State} {a : Agent} (k : Int) (h : s.agents[cur s]? = some a) :
    (advanceEP (moveCP s k)).agents[cur (advanceEP (moveCP s k))]? = some (movedEntry s a k) := by
  rw [advanceEP_moveCP_eq k h]
  exact withCur_getElem?_cur _ h

/-- CP after one move (R24). -/
theorem cp_move {s : State} {a : Agent} (k : Int) (h : s.agents[cur s]? = some a) :
    (curAgent (advanceEP (moveCP s k))).cp = wrap s.cfg.coreSize (a.cp + k) := by
  rw [curAgent_of_some (agents_cur_move k h)]; rfl

/-- Two moves add up: CP after both is the residue of one move by the sum. -/
theorem cp_move_move {s : State} {a : Agent} (k l : Int) (hn : 0 < s.cfg.coreSize)
    (h : s.agents[cur s]? = some a) :
    (curAgent (advanceEP (moveCP (advanceEP (moveCP s k)) l))).cp =
      wrap s.cfg.coreSize (a.cp + (k + l)) := by
  rw [cp_move l (agents_cur_move k h), ← add_assoc]
  exact wrap_add_wrap hn _ l

section Laws

variable {i j : Instr} {k : Int} {s : State} {a : Agent}

/-- A cell-pointer instruction completes with CP in the core (R24). -/
theorem exec_cp_lt (hi : cpOffset i = some k) (hn : 0 < s.cfg.coreSize)
    (h : s.agents[cur s]? = some a) :
    ∃ t, exec i s = .next t ∧ (curAgent t).cp < s.cfg.coreSize :=
  ⟨_, exec_of_cpOffset hi s, cp_move k h ▸ wrap_lt hn _⟩

/-- Instructions of opposite offsets restore CP. -/
theorem exec_opposite_restores_cp (hi : cpOffset i = some k) (hj : cpOffset j = some (-k))
    (h : s.agents[cur s]? = some a) (hcp : a.cp < s.cfg.coreSize) :
    ∃ t u, exec i s = .next t ∧ exec j t = .next u ∧ (curAgent u).cp = a.cp := by
  refine ⟨_, _, exec_of_cpOffset hi s, exec_of_cpOffset hj _, ?_⟩
  rw [cp_move_move k (-k) (Nat.zero_lt_of_lt hcp) h, add_neg_cancel, add_zero, wrap_of_lt hcp]

/-- An instruction performed twice leaves the CP of the one of twice its offset. -/
theorem exec_twice_cp_eq (hi : cpOffset i = some k) (hj : cpOffset j = some (k + k))
    (hn : 0 < s.cfg.coreSize) (h : s.agents[cur s]? = some a) :
    ∃ t u v, exec i s = .next t ∧ exec i t = .next u ∧ exec j s = .next v ∧
      (curAgent u).cp = (curAgent v).cp :=
  ⟨_, _, _, exec_of_cpOffset hi s, exec_of_cpOffset hi _, exec_of_cpOffset hj s,
    (cp_move_move k k hn h).trans (cp_move (k + k) h).symm⟩

end Laws

/-- Settles O13, each instance of a law by the offsets of its instructions. -/
theorem pointerMovesObeyTheFamilyLaws : Obligations.PointerMovesObeyTheFamilyLaws := by
  intro s a hn h hcp
  have hpos : 0 < s.cfg.coreSize := by omega
  simp only [List.forall_mem_cons]
  exact ⟨⟨exec_cp_lt rfl hpos h, exec_cp_lt rfl hpos h, exec_cp_lt rfl hpos h,
      exec_cp_lt rfl hpos h, List.forall_mem_nil _⟩,
    ⟨exec_opposite_restores_cp rfl rfl h hcp, exec_opposite_restores_cp rfl rfl h hcp,
      exec_opposite_restores_cp rfl rfl h hcp, exec_opposite_restores_cp rfl rfl h hcp,
      List.forall_mem_nil _⟩,
    ⟨exec_twice_cp_eq rfl rfl hpos h, exec_twice_cp_eq rfl rfl hpos h, List.forall_mem_nil _⟩⟩

end Sys2Proof.Machine
end


section
/-! PROOFS. Cell and character arithmetic (spec/42_cell_char.md): INC and DEC add a constant to the
cell at CP, CINC and CDEC add one to the character there, so what an addition leaves and how two of
them add up is said once for each of the two operands. -/

namespace Sys2Proof.Machine

/-! ### The addends -/

/-- What an instruction adds to the cell at CP (R110, R111). -/
def cellAddend : Instr → Option Nibble
  | .inc => some 1#4
  | .dec => some (-1#4)
  | .halt | .next | .prev | .next2 | .prev2 | .cinc | .cdec | .out | .inp | .opn | .close | .copen
  | .cclose | .swap => none

/-- What an instruction adds to the character at CP (R112, R113). -/
def charAddend : Instr → Option Byte
  | .cinc => some 1#8
  | .cdec => some (-1#8)
  | .halt | .next | .prev | .next2 | .prev2 | .inc | .dec | .out | .inp | .opn | .close | .copen
  | .cclose | .swap => none

/-- A cell-arithmetic instruction writes the sum to the cell at CP and advances EP. -/
theorem exec_of_cellAddend {i : Instr} {k : Nibble} (hi : cellAddend i = some k) (s : State) :
    exec i s = .next (advanceEP (setCellAtCP s (cellAtCP s + k))) := by
  cases i with
  | inc => obtain rfl := Option.some.inj hi; rfl
  | dec => obtain rfl := Option.some.inj hi; rw [← sub_eq_add_neg]; rfl
  | halt | next | prev | next2 | prev2 | cinc | cdec | out | inp | opn | close | copen | cclose
  | swap => cases hi

/-- A character-arithmetic instruction writes the sum to the character at CP and advances EP. -/
theorem exec_of_charAddend {i : Instr} {k : Byte} (hi : charAddend i = some k) (s : State) :
    exec i s = .next (advanceEP (setCharAtCP s (charAtCP s + k))) := by
  cases i with
  | cinc => obtain rfl := Option.some.inj hi; rfl
  | cdec => obtain rfl := Option.some.inj hi; rw [← sub_eq_add_neg]; rfl
  | halt | next | prev | next2 | prev2 | inc | dec | out | inp | opn | close | copen | cclose
  | swap => cases hi

/-! ### One addition -/

/-- Only the core and the EP of the stepping agent, whose entry is `a`, differ in `t` (R93, R98). -/
abbrev ChangesCoreAndEP (s : State) (a : Agent) (t : State) : Prop :=
  t = { s with core := t.core, agents := withCur s (epAfter s a a.ep) }

/-- The advance after a write to the core. -/
theorem advanceEP_changesCoreAndEP {s : State} {a : Agent} (m : Memory)
    (h : s.agents[cur s]? = some a) :
    ChangesCoreAndEP s a (advanceEP { s with core := m }) :=
  advanceEP_eq (s := { s with core := m }) h

/-- Such a change keeps the configuration. -/
theorem ChangesCoreAndEP.cfg_eq {s t : State} {a : Agent} (h : ChangesCoreAndEP s a t) :
    t.cfg = s.cfg := by rw [h]

/-- After such a change the table has the stepping agent's entry with EP advanced. -/
theorem ChangesCoreAndEP.agents_cur {s t : State} {a : Agent} (ht : ChangesCoreAndEP s a t)
    (h : s.agents[cur s]? = some a) : t.agents[cur t]? = some (epAfter s a a.ep) := by
  rw [ht]
  exact withCur_getElem?_cur _ h

/-- The advance keeps every cell. -/
theorem advanceEP_cellsKept (s : State) : CellsKept s (advanceEP s) := .of_core rfl rfl

/-- Where every cell is kept, so is every character. -/
theorem CellsKept.readChar_eq {s t : State} (h : CellsKept s t) (p : Int) :
    readChar t p = readChar s p := by
  rw [readChar, h, h]; rfl

/-- A cell-arithmetic instruction completes: its addend is added to the cell at CP mod 16, and
nothing else but EP changes. -/
theorem exec_adds_to_cell {i : Instr} {k : Nibble} {s : State} {a : Agent}
    (hi : cellAddend i = some k) (h : s.agents[cur s]? = some a) :
    ∃ t, exec i s = .next t ∧
      (memRead t a.cp).toNat = ((memRead s a.cp).toNat + k.toNat) % 16 ∧
      CellsKeptButCell s t a.cp ∧ ChangesCoreAndEP s a t := by
  obtain rfl := curAgent_of_some h
  refine ⟨_, exec_of_cellAddend hi s, ?_, memWrite_cellsKeptButCell s _ _,
    advanceEP_changesCoreAndEP _ h⟩
  rw [advanceEP_cellsKept, setCellAtCP, memRead_memWrite, if_pos rfl, BitVec.toNat_add]
  rfl

/-- A character-arithmetic instruction completes: its addend is added to the character at CP mod
256, and nothing else but EP changes. -/
theorem exec_adds_to_char {i : Instr} {k : Byte} {s : State} {a : Agent}
    (hi : charAddend i = some k) (hn : 2 ≤ s.cfg.coreSize) (h : s.agents[cur s]? = some a) :
    ∃ t, exec i s = .next t ∧
      (readChar t a.cp).toNat = ((readChar s a.cp).toNat + k.toNat) % 256 ∧
      CellsKeptButChar s t a.cp ∧ ChangesCoreAndEP s a t := by
  obtain rfl := curAgent_of_some h
  refine ⟨_, exec_of_charAddend hi s, ?_, writeChar_cellsKeptButChar s _ _,
    advanceEP_changesCoreAndEP _ h⟩
  rw [(advanceEP_cellsKept _).readChar_eq, setCharAtCP, readChar_writeChar hn,
    BitVec.toNat_add]
  rfl

/-- Settles O14. -/
theorem incAddsOneToTheCellModSixteen : Obligations.IncAddsOneToTheCellModSixteen :=
  fun _ _ h => exec_adds_to_cell (k := 1#4) rfl h

/-- Settles O15. -/
theorem decTakesOneFromTheCellModSixteen : Obligations.DecTakesOneFromTheCellModSixteen :=
  fun _ _ h => exec_adds_to_cell (k := -1#4) rfl h

/-- Settles O16. -/
theorem cincAddsOneToTheCharacterMod256 : Obligations.CincAddsOneToTheCharacterMod256 :=
  fun _ _ hn h => exec_adds_to_char (k := 1#8) rfl hn h

/-- Settles O17. -/
theorem cdecTakesOneFromTheCharacterMod256 : Obligations.CdecTakesOneFromTheCharacterMod256 :=
  fun _ _ hn h => exec_adds_to_char (k := -1#8) rfl hn h

/-! ### Additions one after the other -/

section Frames

variable {s t u : State} {p : Int}

/-- Addresses of one residue read alike (R51). -/
theorem memRead_eq_of_wrap_eq {x y : Int} (h : wrap s.cfg.coreSize x = wrap s.cfg.coreSize y) :
    memRead s x = memRead s y := congrArg s.core.get h

/-- Two writes to one cell keep every other cell. -/
theorem CellsKeptButCell.trans (h : CellsKeptButCell s t p) (h' : CellsKeptButCell t u p)
    (hcfg : t.cfg = s.cfg) : CellsKeptButCell s u p :=
  fun x hx => (h' x (hcfg ▸ hx)).trans (h x hx)

/-- Two writes to one character keep every cell outside it. -/
theorem CellsKeptButChar.trans (h : CellsKeptButChar s t p) (h' : CellsKeptButChar t u p)
    (hcfg : t.cfg = s.cfg) : CellsKeptButChar s u p :=
  fun x hlow hhigh => (h' x (hcfg ▸ hlow) (hcfg ▸ hhigh)).trans (h x hlow hhigh)

/-- Where all but one cell is kept and that cell reads as before, every cell is kept. -/
theorem CellsKeptButCell.cellsKept (h : CellsKeptButCell s t p) (hcfg : t.cfg = s.cfg)
    (hp : memRead t p = memRead s p) : CellsKept s t := by
  intro x
  by_cases hx : wrap s.cfg.coreSize x = wrap s.cfg.coreSize p
  · rw [memRead_eq_of_wrap_eq hx, memRead_eq_of_wrap_eq (s := t) (hcfg ▸ hx), hp]
  · exact h x hx

/-- Equal characters have equal cells: a character's value determines its two nibbles (R55). -/
theorem cells_eq_of_readChar_eq (h : readChar t p = readChar s p) :
    memRead t (p - 1) = memRead s (p - 1) ∧ memRead t p = memRead s p := by
  have hval := congrArg BitVec.toNat h
  rw [readChar_toNat, readChar_toNat] at hval
  have hlow := (memRead s p).isLt
  have hlow' := (memRead t p).isLt
  exact ⟨BitVec.eq_of_toNat_eq (by omega), BitVec.eq_of_toNat_eq (by omega)⟩

/-- Where all cells outside a character are kept and it reads as before, every cell is kept. -/
theorem CellsKeptButChar.cellsKept (h : CellsKeptButChar s t p) (hcfg : t.cfg = s.cfg)
    (hp : readChar t p = readChar s p) : CellsKept s t := by
  obtain ⟨hhigh, hlow⟩ := cells_eq_of_readChar_eq hp
  refine CellsKeptButCell.cellsKept (p := p) (fun x hx => ?_) hcfg hlow
  by_cases hx' : wrap s.cfg.coreSize x = wrap s.cfg.coreSize (p - 1)
  · rw [memRead_eq_of_wrap_eq hx', memRead_eq_of_wrap_eq (s := t) (hcfg ▸ hx'), hhigh]
  · exact h x hx hx'

end Frames

section Laws

variable {i j : Instr} {s : State} {a : Agent}

/-- Cell arithmetic by addends that sum to 0 restores every cell. -/
theorem exec_opposite_restores_cell {k l : Nibble} (hi : cellAddend i = some k)
    (hj : cellAddend j = some l) (hkl : (k.toNat + l.toNat) % 16 = 0)
    (h : s.agents[cur s]? = some a) :
    ∃ t u, exec i s = .next t ∧ exec j t = .next u ∧ CellsKept s u := by
  obtain ⟨t, ht, hval, hkept, hst⟩ := exec_adds_to_cell hi h
  obtain ⟨u, hu, hval', hkept', htu⟩ := exec_adds_to_cell hj (hst.agents_cur h)
  refine ⟨t, u, ht, hu, (hkept.trans hkept' hst.cfg_eq).cellsKept
    (htu.cfg_eq.trans hst.cfg_eq) (BitVec.eq_of_toNat_eq (hval'.trans ?_))⟩
  have hlt := (memRead s a.cp).isLt
  simp only [epAfter]
  omega

/-- Character arithmetic by addends that sum to 0 restores every cell. -/
theorem exec_opposite_restores_char {k l : Byte} (hi : charAddend i = some k)
    (hj : charAddend j = some l) (hkl : (k.toNat + l.toNat) % 256 = 0) (hn : 2 ≤ s.cfg.coreSize)
    (h : s.agents[cur s]? = some a) :
    ∃ t u, exec i s = .next t ∧ exec j t = .next u ∧ CellsKept s u := by
  obtain ⟨t, ht, hval, hkept, hst⟩ := exec_adds_to_char hi hn h
  obtain ⟨u, hu, hval', hkept', htu⟩ :=
    exec_adds_to_char hj (hst.cfg_eq ▸ hn) (hst.agents_cur h)
  refine ⟨t, u, ht, hu, (hkept.trans hkept' hst.cfg_eq).cellsKept
    (htu.cfg_eq.trans hst.cfg_eq) (BitVec.eq_of_toNat_eq (hval'.trans ?_))⟩
  have hlt := (readChar s a.cp).isLt
  simp only [epAfter]
  omega

/-- INC and CINC leave the same cell at CP; the carry goes to the cell before it, by CINC only and
exactly when the cell at CP was 15. -/
theorem exec_inc_cinc_carry (hn : 2 ≤ s.cfg.coreSize) (h : s.agents[cur s]? = some a) :
    ∃ t u, exec .inc s = .next t ∧ exec .cinc s = .next u ∧
      memRead u a.cp = memRead t a.cp ∧ memRead t (a.cp - 1) = memRead s (a.cp - 1) ∧
      (memRead u (a.cp - 1) ≠ memRead s (a.cp - 1) ↔ memRead s a.cp = 15#4) := by
  obtain ⟨t, ht, hval, hkept, -⟩ := exec_adds_to_cell (i := .inc) rfl h
  obtain ⟨u, hu, hsum, -, -⟩ := exec_adds_to_char (i := .cinc) rfl hn h
  have hhigh := (memRead s (a.cp - 1)).isLt
  have hlow := (memRead s a.cp).isLt
  have hhigh' := (memRead u (a.cp - 1)).isLt
  have hlow' := (memRead u a.cp).isLt
  simp only [readChar_toNat, BitVec.toNat_ofNat] at hval hsum
  refine ⟨t, u, ht, hu, BitVec.eq_of_toNat_eq (by omega), hkept _ (wrap_sub_one_ne hn _), ?_⟩
  rw [Ne, ← BitVec.toNat_inj, ← BitVec.toNat_inj, BitVec.toNat_ofNat]
  omega

end Laws

/-- Settles O18: each pair of inverses by the addends of its instructions, then the carry. -/
theorem arithmeticObeysTheFamilyLaws : Obligations.ArithmeticObeysTheFamilyLaws := by
  intro s a hn h
  simp only [List.forall_mem_cons]
  exact ⟨⟨exec_opposite_restores_cell rfl rfl rfl h, exec_opposite_restores_cell rfl rfl rfl h,
      exec_opposite_restores_char rfl rfl rfl hn h, exec_opposite_restores_char rfl rfl rfl hn h,
      List.forall_mem_nil _⟩,
    exec_inc_cinc_carry hn h⟩

end Sys2Proof.Machine
end


section
/-! PROOFS. Character I/O and swap (spec/43_io_swap.md): in ARENA mode the three instructions are the
advance alone; in SINGLE mode OUT writes no cell, and IN and SWAP are one character write at CP from a
state that differs in the input position or in Buffer only. -/

namespace Sys2Proof.Machine

/-! ### ARENA mode -/

/-- OUT, IN and SWAP are the advance alone in ARENA mode (R123). -/
theorem exec_io_of_arena {i : Instr} {s : State} (hi : i ∈ [Instr.out, .inp, .swap])
    (hm : s.cfg.mode = .arena) : exec i s = .next (advanceEP s) := by
  have hns : ¬ s.cfg.mode = .single := by rw [hm]; decide
  simp only [List.mem_cons, List.not_mem_nil, or_false] at hi
  obtain rfl | rfl | rfl := hi
  · rw [exec_out, if_neg hns]
  · rw [exec_inp, if_neg hns]
  · rw [exec_swap, if_neg hns]

/-- OUT, IN and SWAP complete in ARENA mode, and only EP of the stepping agent changes (R123). -/
theorem exec_io_arena_noOp {i : Instr} {s : State} {a : Agent}
    (hi : i ∈ [Instr.out, .inp, .swap]) (hm : s.cfg.mode = .arena)
    (h : s.agents[cur s]? = some a) :
    ∃ t, exec i s = .next t ∧ CellsKept s t ∧
      t = { s with agents := withCur s (epAfter s a a.ep) } :=
  ⟨_, exec_io_of_arena hi hm, advanceEP_cellsKept s, advanceEP_eq h⟩

/-! ### SINGLE mode -/

/-- OUT in SINGLE mode (R120). -/
theorem exec_out_of_single {s : State} (hm : s.cfg.mode = .single) :
    exec .out s = .next (advanceEP (outWrite s (charAtCP s))) := by
  rw [exec_out, if_pos hm]

/-- IN in SINGLE mode (R121). -/
theorem exec_inp_of_single {s : State} (hm : s.cfg.mode = .single) :
    exec .inp s = .next (advanceEP (setCharAtCP (inConsume s) (inValue s))) := by
  rw [exec_inp, if_pos hm]

/-- SWAP in SINGLE mode: the two writes commute, so the character's may come last (R122). -/
theorem exec_swap_of_single {s : State} (hm : s.cfg.mode = .single) :
    exec .swap s = .next (advanceEP (setCharAtCP (setBuffer s (charAtCP s)) s.buffer)) := by
  rw [exec_swap, if_pos hm]; rfl

/-- A byte that is left is consumed (R171). -/
theorem inConsume_of_some {s : State} {b : Byte} (hb : s.cfg.input[s.inPos]? = some b) :
    inConsume s = { s with inPos := s.inPos + 1 } := by
  simp only [inConsume, inAnswer, hb]

/-- The end of input consumes nothing (R171). -/
theorem inConsume_of_none {s : State} (hb : s.cfg.input[s.inPos]? = none) : inConsume s = s := by
  simp only [inConsume, inAnswer, hb]

/-- The value IN stores while a byte is left (R121). -/
theorem inValue_of_some {s : State} {b : Byte} (hb : s.cfg.input[s.inPos]? = some b) :
    inValue s = b := by rw [inValue, inAnswer, hb]; rfl

/-- The value IN stores at end of input (R121, R157). -/
theorem inValue_of_none {s : State} (hb : s.cfg.input[s.inPos]? = none) : inValue s = 0#8 := by
  rw [inValue, inAnswer, hb]; rfl

/-- A character written at CP before the advance reads back, and of the state it was written in only
its two cells and EP change (R54, R69, R93). -/
theorem exec_stores_char {i : Instr} {s u : State} {a : Agent} {b : Byte}
    (hi : exec i s = .next (advanceEP (setCharAtCP u b))) (hn : 2 ≤ u.cfg.coreSize)
    (h : u.agents[cur u]? = some a) :
    ∃ t, exec i s = .next t ∧ readChar t a.cp = b ∧ CellsKeptButChar u t a.cp ∧
      ChangesCoreAndEP u a t := by
  obtain rfl := curAgent_of_some h
  refine ⟨_, hi, ?_, writeChar_cellsKeptButChar u _ _, advanceEP_changesCoreAndEP _ h⟩
  rw [(advanceEP_cellsKept _).readChar_eq, setCharAtCP, readChar_writeChar hn]

/-- Settles O19, by the mode. -/
theorem outEmitsTheCharacterAtCP : Obligations.OutEmitsTheCharacterAtCP := by
  intro s a h
  refine ⟨fun hm => ?_, fun hm => exec_io_arena_noOp (by simp) hm h⟩
  obtain rfl := curAgent_of_some h
  exact ⟨_, exec_out_of_single hm, .of_core rfl rfl,
    advanceEP_eq (s := outWrite s (charAtCP s)) h⟩

/-- Settles O20: a character write from the state the channel is left in, by what the channel
answers. -/
theorem inStoresTheNextByteOrZero : Obligations.InStoresTheNextByteOrZero := by
  intro s a h
  refine ⟨fun b hn hm hb => ?byte, fun hn hm hb => ?endOfInput,
    fun hm => exec_io_arena_noOp (by simp) hm h⟩
  case byte =>
    have hexec := exec_inp_of_single hm
    rw [inConsume_of_some hb, inValue_of_some hb] at hexec
    exact exec_stores_char hexec hn h
  case endOfInput =>
    have hexec := exec_inp_of_single hm
    rw [inConsume_of_none hb, inValue_of_none hb] at hexec
    exact exec_stores_char hexec hn h

/-- Settles O21: a character write from the state with Buffer already exchanged, and the advance
alone in ARENA mode. -/
theorem swapExchangesWithBufferAndArenaIoIsANoOp :
    Obligations.SwapExchangesWithBufferAndArenaIoIsANoOp := by
  intro s a h
  refine ⟨fun hn hm => ?_, fun hm i hi => exec_io_arena_noOp hi hm h⟩
  obtain rfl := curAgent_of_some h
  exact exec_stores_char (exec_swap_of_single hm) hn h

end Sys2Proof.Machine
end


section
/-! PROOFS. Halt, the bracket resolver and the four jumps (spec/44_control.md). The resolver's loop is
tied to the depth said without it: at the k-th cell of its scan the loop holds that cell's address and
`depthAt` of k. What a forward and a backward scan have in common is then a fact about depths. -/

namespace Sys2Proof.Machine

/-! ### The cells of a scan -/

/-- The address of the k-th cell of the scan from `start` (R132). -/
def scanAddr (s : State) (d : Dir) (start k : Nat) : Nat :=
  wrap s.cfg.coreSize (start + dirStep d * k)

/-- A scan begins at its start. -/
theorem scanAddr_zero {s : State} {start : Nat} (d : Dir) (h : start < s.cfg.coreSize) :
    scanAddr s d start 0 = start := by
  rw [scanAddr, Nat.cast_zero, mul_zero, add_zero, wrap_of_lt h]

/-- One move of the scan pointer (R132). -/
theorem wrap_scanAddr_add_dirStep {s : State} (d : Dir) (start k : Nat) (hn : 0 < s.cfg.coreSize) :
    wrap s.cfg.coreSize (scanAddr s d start k + dirStep d) = scanAddr s d start (k + 1) := by
  rw [scanAddr, wrap_add_wrap hn, scanAddr]
  congr 1
  push_cast
  ring

/-- A cell of the scan is read by its address. -/
theorem memRead_scanAddr {s : State} (d : Dir) (start k : Nat) (hn : 0 < s.cfg.coreSize) :
    memRead s (scanAddr s d start k) = memRead s (start + dirStep d * k) :=
  memRead_eq_of_wrap_eq (wrap_of_lt (wrap_lt hn _))

/-- The scan is at its start again after whole turns of the core. -/
theorem scanAddr_eq_start_iff_dvd {s : State} {start : Nat} (d : Dir) (k : Nat)
    (h : start < s.cfg.coreSize) : scanAddr s d start k = start ↔ s.cfg.coreSize ∣ k := by
  have hwrap : scanAddr s d start k = start ↔
      wrap s.cfg.coreSize (start + dirStep d * k) = wrap s.cfg.coreSize start := by
    rw [wrap_of_lt h]; rfl
  rw [hwrap, wrap_eq_iff (Nat.zero_lt_of_lt h), Int.emod_eq_emod_iff_emod_sub_eq_zero,
    add_sub_cancel_left, ← Int.dvd_iff_emod_eq_zero, ← Int.natCast_dvd_natCast]
  cases d with
  | fwd => rw [dirStep, one_mul]
  | bwd => rw [dirStep, neg_one_mul, dvd_neg]

/-- Within one turn the scan is at its start after N moves only (R132, R135). -/
theorem scanAddr_eq_start_iff {s : State} {start k : Nat} (d : Dir) (h : start < s.cfg.coreSize)
    (hpos : 0 < k) (hle : k ≤ s.cfg.coreSize) :
    scanAddr s d start k = start ↔ k = s.cfg.coreSize := by
  rw [scanAddr_eq_start_iff_dvd d k h]
  exact ⟨fun hd => le_antisymm hle (Nat.le_of_dvd hpos hd), fun he => he ▸ dvd_rfl⟩

/-! ### The depth -/

/-- A cell raises the depth by at most one (R132). -/
theorem depthWeight_le_one (d : Dir) (f : Family) (v : Nibble) : depthWeight d f v ≤ 1 := by
  unfold depthWeight; split_ifs <;> decide

/-- A cell lowers the depth by at most one (R132). -/
theorem neg_one_le_depthWeight (d : Dir) (f : Family) (v : Nibble) : -1 ≤ depthWeight d f v := by
  unfold depthWeight; split_ifs <;> decide

/-- Only the lowering code lowers the depth (R132, R133). -/
theorem eq_lowerCode_of_depthWeight_neg {d : Dir} {f : Family} {v : Nibble}
    (h : depthWeight d f v < 0) : v = lowerCode d f := by
  unfold depthWeight at h
  split_ifs at h with _ hv
  · omega
  · exact hv
  · omega

/-- The open code raises the depth of a forward scan. -/
theorem depthWeight_fwd_openCode (f : Family) : depthWeight .fwd f (openCode f) = 1 := if_pos rfl

/-- The two directions swap the roles of the codes (R132). -/
theorem depthWeight_bwd (f : Family) (v : Nibble) :
    depthWeight .bwd f v = -depthWeight .fwd f v := by
  have hne : openCode f ≠ closeCode f := raiseCode_ne_lowerCode .fwd f
  show (if v = closeCode f then 1 else if v = openCode f then -1 else 0 : Int) =
    -(if v = openCode f then 1 else if v = closeCode f then -1 else 0)
  by_cases hopen : v = openCode f
  · rw [if_pos hopen, if_pos hopen, if_neg (hopen ▸ hne)]
  · rw [if_neg hopen, if_neg hopen]
    split_ifs <;> decide

/-- The depth the loop counts is the one the weights sum to, as long as it is at least 1 before the
cell (R132). -/
theorem nextDepth_cast (d : Dir) (f : Family) (v : Nibble) {k : Nat} (hk : 1 ≤ k) :
    (nextDepth d f v k : Int) = k + depthWeight d f v := by
  unfold nextDepth depthWeight
  split_ifs <;> omega

/-- The depth grows by at most one a cell (R135). -/
theorem depthAt_le (s : State) (d : Dir) (f : Family) (start k : Nat) :
    depthAt s d f start k ≤ k + 1 := by
  induction k with
  | zero => exact le_rfl
  | succ k ih =>
    have hw := depthWeight_le_one d f (memRead s (start + dirStep d * (k + 1)))
    rw [depthAt]
    omega

/-- The depth the loop holds after its next cell. -/
theorem nextDepth_eq_depthAt {s : State} {d : Dir} {f : Family} {start j depth : Nat}
    (hn : 0 < s.cfg.coreSize) (hdepth : (depth : Int) = depthAt s d f start j)
    (hpos : 1 ≤ depthAt s d f start j) :
    (nextDepth d f (memRead s (scanAddr s d start (j + 1))) depth : Int) =
      depthAt s d f start (j + 1) := by
  rw [nextDepth_cast d f _ (by omega), hdepth, memRead_scanAddr d start _ hn, depthAt, Nat.cast_succ]

/-! ### The loop finds the match -/

/-- Where the depth is 0 for the first time, there is the match and nowhere else. -/
theorem isMatch_iff_of_first_zero {s : State} {d : Dir} {f : Family} {start k q : Nat} (hpos : 0 < k)
    (hlt : k < s.cfg.coreSize) (hzero : depthAt s d f start k = 0)
    (hbefore : ∀ j < k, 1 ≤ depthAt s d f start j) :
    IsMatch s d f start q ↔ scanAddr s d start k = q := by
  refine ⟨?_, fun hq => ⟨k, hpos, hlt, hq.symm, hzero, hbefore⟩⟩
  rintro ⟨l, _, _, hq, hl, hbefore'⟩
  obtain hkl | rfl | hlk := lt_trichotomy k l
  · have := hbefore' k hkl
    omega
  · exact hq.symm
  · have := hbefore l hlk
    omega

/-- No match while the depth stays at least 1 for the whole turn. -/
theorem not_isMatch_of_depth_pos {s : State} {d : Dir} {f : Family} {start q : Nat}
    (h : ∀ j < s.cfg.coreSize, 1 ≤ depthAt s d f start j) : ¬ IsMatch s d f start q := by
  rintro ⟨k, _, hlt, _, hzero, _⟩
  have := h k hlt
  omega

/-- The loop from the j-th cell on, the depth at least 1 up to there, answers the match: it neither
stops before it nor misses it, and its fuel is the rest of the turn (R132, R135). -/
theorem scan_eq_some_iff_isMatch {s : State} {d : Dir} {f : Family} {start q : Nat}
    (hstart : start < s.cfg.coreSize) (fuel : Nat) {j depth : Nat}
    (hfuel : j + fuel = s.cfg.coreSize) (hdepth : (depth : Int) = depthAt s d f start j)
    (hbefore : ∀ i ≤ j, 1 ≤ depthAt s d f start i) :
    scan s d f start fuel (scanAddr s d start j) depth = some q ↔ IsMatch s d f start q := by
  have hn : 0 < s.cfg.coreSize := Nat.zero_lt_of_lt hstart
  induction fuel generalizing j depth with
  | zero =>
    exact iff_of_false nofun (not_isMatch_of_depth_pos fun i hi => hbefore i (by omega))
  | succ fuel ih =>
    rw [scan_succ, wrap_scanAddr_add_dirStep d start j hn]
    have hback := scanAddr_eq_start_iff d hstart (k := j + 1) (by omega) (by omega)
    have hnext := nextDepth_eq_depthAt hn hdepth (hbefore j le_rfl)
    split_ifs with hturn hzero
    · have hend := hback.mp hturn
      exact iff_of_false nofun (not_isMatch_of_depth_pos fun i hi => hbefore i (by omega))
    · have hlt : j + 1 < s.cfg.coreSize := by
        have := mt hback.mpr hturn
        omega
      rw [Option.some_inj, isMatch_iff_of_first_zero (Nat.add_one_pos j) hlt (by omega)
        fun i hi => hbefore i (Nat.le_of_lt_succ hi)]
    · refine ih (by omega) hnext fun i hi => ?_
      by_cases hle : i ≤ j
      · exact hbefore i hle
      · obtain rfl : i = j + 1 := by omega
        omega

/-- A whole scan from a core address answers the match of the bracket there. -/
theorem scan_start_eq_some_iff {s : State} {d : Dir} {f : Family} {start q : Nat}
    (hstart : start < s.cfg.coreSize) :
    scan s d f start s.cfg.coreSize start 1 = some q ↔ IsMatch s d f start q := by
  have hscan := scan_eq_some_iff_isMatch (d := d) (f := f) (q := q) (j := 0) (depth := 1) hstart
    s.cfg.coreSize (Nat.zero_add _) rfl fun i hi => by rw [Nat.le_zero.mp hi]; exact le_rfl
  rwa [scanAddr_zero d hstart] at hscan

/-- Settles O28. -/
theorem resolverFindsTheFirstBalancedCell : Obligations.ResolverFindsTheFirstBalancedCell :=
  fun _ _ _ _ hep => scan_start_eq_some_iff hep

/-! ### What the resolver can answer -/

/-- The resolver answers a core address other than the stepping agent's EP (R135); in an empty core it
fails. -/
theorem resolve_some {s : State} {d : Dir} {f : Family} {q : Nat} (h : resolve s d f = some q) :
    q < s.cfg.coreSize ∧ q ≠ (curAgent s).ep := by
  obtain hn | hn := Nat.eq_zero_or_pos s.cfg.coreSize
  · rw [resolve, hn] at h
    cases h
  · exact scan_some hn _ _ _ h

/-- Settles O29. -/
theorem resolverDepthAndAnswerStayInBounds : Obligations.ResolverDepthAndAnswerStayInBounds := by
  refine fun s d f _ => ⟨fun k hk => ?_, fun q => resolve_some⟩
  have := depthAt_le s d f (curAgent s).ep k
  omega

/-! ### Back from the match -/

/-- A scan meets its match at depth 1, on the lowering code (R132). -/
theorem depth_one_and_lowerCode_of_zero {s : State} {d : Dir} {f : Family} {start k : Nat}
    (hbefore : 1 ≤ depthAt s d f start k) (hzero : depthAt s d f start (k + 1) = 0) :
    depthAt s d f start k = 1 ∧ memRead s (start + dirStep d * (k + 1)) = lowerCode d f := by
  rw [depthAt] at hzero
  have hw := neg_one_le_depthWeight d f (memRead s (start + dirStep d * (k + 1)))
  exact ⟨by omega, eq_lowerCode_of_depthWeight_neg (by omega)⟩

/-- A cell read from the match backward is one of the forward scan: `j` back is `i` on. -/
theorem memRead_back {s : State} {e k i j : Nat} (hn : 0 < s.cfg.coreSize) (hij : i + j = k) :
    memRead s (scanAddr s .fwd e k + dirStep .bwd * j) = memRead s (e + dirStep .fwd * i) := by
  refine memRead_eq_of_wrap_eq ?_
  rw [scanAddr, wrap_add_wrap hn, ← hij]
  congr 1
  simp only [dirStep]
  push_cast
  ring

/-- The depth going back from the match is the depth the forward scan had one cell before (R141): the
weights change their sign and are taken in the reverse order. -/
theorem depthAt_back {s : State} {f : Family} {e k i j : Nat} (hn : 0 < s.cfg.coreSize)
    (hone : depthAt s .fwd f e k = 1) (hij : i + j = k) :
    depthAt s .bwd f (scanAddr s .fwd e (k + 1)) j = depthAt s .fwd f e i := by
  induction j generalizing i with
  | zero => rw [depthAt, ← hone, ← hij, add_zero]
  | succ j ih =>
    have hread := memRead_back (s := s) (e := e) (k := k + 1) (i := i + 1) (j := j + 1) hn (by omega)
    rw [Nat.cast_succ, Nat.cast_succ] at hread
    rw [depthAt, ih (i := i + 1) (by omega), depthAt, hread, depthWeight_bwd]
    omega

/-- From the match of a forward scan that begins on the open code, the open bracket is the match of
the backward scan (R141). -/
theorem IsMatch.back {s : State} {f : Family} {e q : Nat} (h : IsMatch s .fwd f e q)
    (he : e < s.cfg.coreSize) (hopen : memRead s e = openCode f) :
    memRead s q = closeCode f ∧ IsMatch s .bwd f q e := by
  obtain ⟨k, hk, hlt, hq, hzero, hbefore⟩ := h
  obtain ⟨m, rfl⟩ := Nat.exists_eq_add_one.mpr hk
  obtain rfl : q = scanAddr s .fwd e (m + 1) := hq
  have hn : 0 < s.cfg.coreSize := Nat.zero_lt_of_lt he
  obtain ⟨hone, hclose⟩ := depth_one_and_lowerCode_of_zero (hbefore m (Nat.lt_add_one m)) hzero
  have hread : memRead s (scanAddr s .fwd e (m + 1) + dirStep .bwd * (m + 1)) = openCode f := by
    have hcell := memRead_back (s := s) (e := e) hn (Nat.zero_add (m + 1))
    rwa [Nat.cast_zero, mul_zero, add_zero, hopen, Nat.cast_succ] at hcell
  refine ⟨?close, m + 1, hk, hlt, ?addr, ?zero, fun j hj => ?before⟩
  case close =>
    rw [memRead_scanAddr .fwd e _ hn, Nat.cast_succ, hclose, lowerCode]
  case addr =>
    rw [scanAddr, wrap_add_wrap hn, dirStep, dirStep, one_mul, neg_one_mul, add_neg_cancel_right,
      wrap_of_lt he]
  case zero =>
    rw [depthAt, depthAt_back hn hone (Nat.zero_add m), hread, depthWeight_bwd,
      depthWeight_fwd_openCode, depthAt, add_neg_cancel]
  case before =>
    rw [depthAt_back hn hone (show m - j + j = m by omega)]
    exact hbefore (m - j) (by omega)

/-- The resolver after EP is put on a core address scans from there (R132). -/
theorem resolve_setEP {s : State} {a : Agent} {q : Nat} (d : Dir) (f : Family)
    (h : s.agents[cur s]? = some a) (hq : q < s.cfg.coreSize) :
    resolve (setEP s q) d f = scan s d f q s.cfg.coreSize q 1 := by
  have hentry : (setEP s q).agents[cur (setEP s q)]? =
      some { a with ep := wrap s.cfg.coreSize q } := by
    rw [setEP, updCur_eq _ h]
    exact withCur_getElem?_cur _ h
  rw [resolve, scan_congr (setEP_core s q) (setEP_cfg s q), curAgent_of_some hentry,
    wrap_of_lt hq, setEP_cfg]

/-- Settles O30: the forward answer is a match, and the match goes back. -/
theorem forwardMatchIsFoundBackAgain : Obligations.ForwardMatchIsFoundBackAgain := by
  intro s f q a h hep hopen hq
  have hlt := (resolve_some hq).1
  obtain rfl := curAgent_of_some h
  have hmatch : IsMatch s .fwd f (curAgent s).ep q := (scan_start_eq_some_iff hep).mp hq
  obtain ⟨hclose, hback⟩ := hmatch.back hep hopen
  exact ⟨hclose, (resolve_setEP .bwd f h hlt).trans ((scan_start_eq_some_iff hlt).mpr hback)⟩

/-! ### One family -/

/-- A move of the depth asks only whether the cell holds one of the family's two codes (R133). -/
theorem nextDepth_congr (d : Dir) {f : Family} {v w : Nibble} (k : Nat)
    (hopen : v = openCode f ↔ w = openCode f) (hclose : v = closeCode f ↔ w = closeCode f) :
    nextDepth d f v k = nextDepth d f w k := by
  unfold nextDepth
  cases d with
  | fwd => exact if_congr hopen rfl (if_congr hclose rfl rfl)
  | bwd => exact if_congr hclose rfl (if_congr hopen rfl rfl)

/-- A scan asks nothing else of the core (R133). -/
theorem scan_congr_of_codes {s : State} {m : Memory} (d : Dir) {f : Family} (start fuel p depth : Nat)
    (h : ∀ a, (s.core.get a = openCode f ↔ m.get a = openCode f) ∧
      (s.core.get a = closeCode f ↔ m.get a = closeCode f)) :
    scan { s with core := m } d f start fuel p depth = scan s d f start fuel p depth := by
  induction fuel generalizing p depth with
  | zero => rfl
  | succ fuel ih =>
    have hnext (x : Int) (k : Nat) :
        nextDepth d f (memRead { s with core := m } x) k = nextDepth d f (memRead s x) k := by
      obtain ⟨hopen, hclose⟩ := h (wrap s.cfg.coreSize x)
      exact nextDepth_congr d k hopen.symm hclose.symm
    rw [scan_succ, scan_succ, hnext, ih]

/-- Settles O31. -/
theorem resolverSeesOnlyItsFamily : Obligations.ResolverSeesOnlyItsFamily :=
  fun _ _ d _ h => scan_congr_of_codes d _ _ _ _ h

/-! ### HALT -/

/-- Settles O23. -/
theorem haltOpcodeHaltsTheAgent : Obligations.HaltOpcodeHaltsTheAgent :=
  fun _ _ h => ⟨_, rfl, .of_core rfl rfl, takeHalt_eq_afterHalt .haltOp h⟩

/-! ### The four brackets -/

/-- The condition of OPEN and CLOSE, at the stepping agent's CP (R137, R138). -/
theorem cellIsZero_iff {s : State} {a : Agent} (h : s.agents[cur s]? = some a) :
    cellIsZero s ↔ memRead s a.cp = 0#4 := by
  rw [cellIsZero, cellAtCP, curAgent_of_some h, beq_iff_eq]

/-- The condition of COPEN and CCLOSE, at the stepping agent's CP (R139, R140). -/
theorem charIsZero_iff {s : State} {a : Agent} (h : s.agents[cur s]? = some a) :
    charIsZero s ↔ readChar s a.cp = 0#8 := by
  rw [charIsZero, charAtCP, curAgent_of_some h, beq_iff_eq]

/-- A taken jump writes no cell (R134). -/
theorem jump_cellsKept (s : State) (d : Dir) (f : Family) : CellsKept s (jump s d f) := by
  cases hq : resolve s d f with
  | none => rw [jump_of_none hq]; exact .of_core rfl rfl
  | some q => rw [Machine.jump, hq]; exact .of_core rfl rfl

/-- An instruction that jumps when its condition `taken` holds changes no cell: it advances, goes past
the match or halts (R93, R134). -/
theorem exec_jump_outcomes {i : Instr} {s : State} {a : Agent} {d : Dir} {f : Family}
    {taken skipped : Prop} [Decidable taken] (h : s.agents[cur s]? = some a) (hskip : skipped → ¬ taken)
    (hexec : exec i s = .next (if taken then jump s d f else advanceEP s)) :
    ∃ t, exec i s = .next t ∧ CellsKept s t ∧
      (skipped → t = { s with agents := withCur s (epAfter s a a.ep) }) ∧
      (taken → ∀ q, resolve s d f = some q →
        t = { s with agents := withCur s (epAfter s a q) }) ∧
      (taken → resolve s d f = none → t = afterHalt s a .unmatched) := by
  refine ⟨_, hexec, ?cells, fun hs => ?advance, fun ht q hq => ?matched, fun ht hq => ?unmatched⟩
  case cells =>
    split
    · exact jump_cellsKept s d f
    · exact advanceEP_cellsKept s
  case advance => rw [if_neg (hskip hs)]; exact advanceEP_eq h
  case matched => rw [if_pos ht]; exact jump_of_some h hq (resolve_some hq).1
  case unmatched => rw [if_pos ht, jump_of_none hq]; exact takeHalt_eq_afterHalt .unmatched h

/-- Settles O24. -/
theorem openJumpsForwardOnZeroCell : Obligations.OpenJumpsForwardOnZeroCell := by
  intro s a h
  refine exec_jump_outcomes h id ?_
  simp only [exec_opn, cellIsZero_iff h]

/-- Settles O25. -/
theorem closeJumpsBackOnNonzeroCell : Obligations.CloseJumpsBackOnNonzeroCell := by
  intro s a h
  refine exec_jump_outcomes h not_not_intro ?_
  simp only [exec_close, cellIsZero_iff h, ite_not, Ne]

/-- Settles O26. -/
theorem copenJumpsForwardOnZeroCharacter : Obligations.CopenJumpsForwardOnZeroCharacter := by
  intro s a h
  refine exec_jump_outcomes h id ?_
  simp only [exec_copen, charIsZero_iff h]

/-- Settles O27. -/
theorem ccloseJumpsBackOnNonzeroCharacter : Obligations.CcloseJumpsBackOnNonzeroCharacter := by
  intro s a h
  refine exec_jump_outcomes h not_not_intro ?_
  simp only [exec_cclose, charIsZero_iff h, ite_not, Ne]

end Sys2Proof.Machine
end

section
/-! PROOFS. The end of a SINGLE run (spec/60_exceptions.md R153, R164, R165): the transition of an
exhausted budget, and the bound on the transitions of a run. -/

namespace Sys2Proof.Machine

/-! ### The transitions of a SINGLE run under way -/

/-- A SINGLE run under way whose budget is exhausted is stopped (R153). -/
theorem step_of_single_exhausted {s : State} (hm : s.cfg.mode = .single) (hn : 2 ≤ s.cfg.coreSize)
    (hp : s.phase = .running) (hr : s.runStatus = .running) (hi : s.cfg.maxIter ≤ s.iter) :
    step s = .next (stopRun s) := by
  rw [step_of_single_booted hm hn hp]
  simp only [runSingle, hr, if_pos hi]

/-- A SINGLE run under way within its budget performs an instruction and counts it (R164, R165). -/
theorem step_of_single_within {s : State} (hm : s.cfg.mode = .single) (hn : 2 ≤ s.cfg.coreSize)
    (hp : s.phase = .running) (hr : s.runStatus = .running) (hi : s.iter < s.cfg.maxIter) :
    ∃ u, exec (decode (fetch s)) s = .next u ∧ step s = .next (countIter u) := by
  obtain ⟨u, hu⟩ := exec_total (decode (fetch s)) s
  refine ⟨u, hu, ?_⟩
  rw [step_of_single_booted hm hn hp, runSingle_of_running hr hi, hu]
  rfl

/-- Settles O40. -/
theorem exhaustedBudgetStopsTheRun : Obligations.ExhaustedBudgetStopsTheRun :=
  fun _ => step_of_single_exhausted

/-- A SINGLE run under way performs a step exactly where its budget is not exhausted (R164). -/
theorem performsStep_of_single {s : State} (hm : s.cfg.mode = .single) (hn : 2 ≤ s.cfg.coreSize)
    (hp : s.phase = .running) (hr : s.runStatus = .running) :
    performsStep s = decide (s.iter < s.cfg.maxIter) := by
  simp only [performsStep, hm, hn, hp, hr, decide_true, Bool.true_and]

/-! ### The run ends -/

/-- Settles O49, by induction on the budget left: at 0 the run is stopped, and otherwise the step
performed halts it or leaves a run under way with a budget of one less. -/
theorem singleRunsEndWithinTheBudget : Obligations.SingleRunsEndWithinTheBudget := by
  intro s
  induction hleft : s.cfg.maxIter - s.iter generalizing s with
  | zero =>
    intro hm hn hp hr hle
    have hstep := step_of_single_exhausted hm hn hp hr (by omega)
    have hcount : agentSteps 1 s = 0 := by
      rw [agentSteps_succ hstep, performsStep_of_single hm hn hp hr, agentSteps_zero]
      simp; omega
    exact ⟨1, stopRun s, Nat.le_refl _, .one hstep, (nomatch ·), hle, by rw [hcount]; rfl⟩
  | succ left ih =>
    intro hm hn hp hr hle
    have hlt : s.iter < s.cfg.maxIter := by omega
    obtain ⟨u, hu, hstep⟩ := step_of_single_within hm hn hp hr hlt
    obtain ⟨hcfg, hiter, -, -, -, hphase, -⟩ := exec_controller hu
    have hcfg' : (countIter u).cfg = s.cfg := hcfg
    have hiter' : (countIter u).iter = s.iter + 1 := congrArg (· + 1) hiter
    have hcount (k : Nat) : agentSteps (k + 1) s = 1 + agentSteps k (countIter u) := by
      rw [agentSteps_succ hstep, performsStep_of_single hm hn hp hr, if_pos (decide_eq_true hlt)]
    by_cases hrun : (countIter u).runStatus = .running
    · obtain ⟨k, t, hk, hkt, hend, htle, htiter⟩ := ih (countIter u)
        (by rw [hcfg', hiter']; omega) (hcfg' ▸ hm) (hcfg' ▸ hn) (hphase.trans hp) hrun
        (by rw [hcfg', hiter']; omega)
      refine ⟨k + 1, t, by omega, .succ hstep hkt, hend, hcfg' ▸ htle, ?_⟩
      rw [htiter, hiter', hcount]; omega
    · refine ⟨1, countIter u, by omega, .one hstep, hrun, by omega, ?_⟩
      rw [hiter', hcount, agentSteps_zero]

end Sys2Proof.Machine
end

section
/-! PROOFS. The transitions of an arena run (spec/60_exceptions.md R175, R176, R183 to R190): its start,
the end of a round, one turn, one pass, and the bound on a whole run. -/

namespace Sys2Proof.Machine

/-! ### Which transition an arena makes -/

/-- An IDLE arena constructs and checks (R175). -/
theorem step_of_arena_idle {s : State} (hm : s.cfg.mode = .arena) (hs : s.arenaStatus = .idle) :
    step s = .next (startArena s) := by
  simp only [step, hm, arenaStep, hs]

/-- A running arena before a round starts it (R175). -/
theorem step_of_arena_loading {s : State} (hm : s.cfg.mode = .arena)
    (hr : s.arenaStatus = .running) (hp : s.phase = .loading) : step s = .next (beginRound s) := by
  simp only [step, hm, arenaStep, hr, hp]

/-- Where no pass is wanted the round ends (R186, R187). -/
theorem step_of_arena_roundEnd {s : State} (hm : s.cfg.mode = .arena)
    (hr : s.arenaStatus = .running) (hp : s.phase = .running) (h0 : s.turn = 0)
    (hw : passWanted s = false) : step s = .next (endRound s) := by
  simp only [step, hm, arenaStep, hr, hp, runRound, if_pos (And.intro h0 hw)]

/-- A dead agent's turn is skipped (R184). -/
theorem turnStep_of_dead {s : State} (h : curAlive s = false) :
    turnStep s = .next (nextTurn s) := by
  simp only [turnStep, h, Bool.false_eq_true, if_false]

/-- A transition of a running arena at TURN 0 that starts or ends a round, and the arena's start, is
no step of an agent (R191). -/
theorem performsStep_of_arena_eq_false {s : State} (hm : s.cfg.mode = .arena)
    (h : s.arenaStatus ≠ .running ∨ s.phase ≠ .running ∨ s.turn = 0 ∧ passWanted s = false) :
    performsStep s = false := by
  simp only [performsStep, hm]
  obtain h | h | ⟨h0, hw⟩ := h
  · simp [h]
  · simp [h]
  · simp [h0, hw]

/-! ### The start of an arena run -/

/-- What construction leaves is the same whether the check fails or not (R175, R176). -/
theorem startArena_eq_construct (s : State) : ∃ st e ph,
    startArena s = { construct s with arenaStatus := st, configError := e, phase := ph } := by
  unfold startArena
  split <;> exact ⟨_, _, _, rfl⟩

/-- A failed check names its error (R176). -/
theorem startArena_of_error {s : State} {e : ConfigError} (h : configCheck s.cfg = some e) :
    (startArena s).arenaStatus = .configError ∧ (startArena s).configError = some e := by
  simp only [startArena, h, failConfig, and_self]

/-- A passed check leaves the arena before its first round (R176, R190). -/
theorem startArena_of_checked {s : State} (h : configCheck s.cfg = none) :
    (startArena s).arenaStatus = .running ∧ (startArena s).configError = none ∧
      (startArena s).phase = .loading := by
  simp only [startArena, h, and_self]

/-- The check's tests in their order (R176). -/
theorem configCheck_arena {c : RunConfig} (hm : c.mode = .arena) :
    configCheck c =
      if c.coreSize < 2 then some .badCoreSize
      else if c.programs.length < 2 then some .tooFewAgents
      else if ∃ p ∈ c.programs, c.maxLen < programLength p then some .programTooLong
      else none := by
  simp only [configCheck, agentCount_of_arena hm, List.any_eq_true, decide_eq_true_eq]

/-- Settles O50: construction, and then the one test of the check that decides. -/
theorem arenaStartConstructsAndChecks : Obligations.ArenaStartConstructsAndChecks := by
  intro s hm hs
  obtain ⟨st, e, ph, hstart⟩ := startArena_eq_construct s
  have hcheck := configCheck_arena hm
  refine ⟨startArena s, step_of_arena_idle hm hs, by rw [hstart]; rfl, by rw [hstart]; rfl,
    by rw [hstart]; rfl, by rw [hstart]; rfl, ?_, ?_, fun hn => ?_, fun hn hk => ?_,
    fun hn hk hlong => ?_, fun hn hk hfit => ?_⟩
  · rw [hstart]; exact List.length_map ..
  · intro a ha
    rw [hstart] at ha
    rw [mem_construct_agents ha]
    exact ⟨rfl, rfl, rfl⟩
  · exact startArena_of_error (by rw [hcheck, if_pos hn])
  · exact startArena_of_error (by rw [hcheck, if_neg (by omega), if_pos hk])
  · exact startArena_of_error (by rw [hcheck, if_neg (by omega), if_neg (by omega), if_pos hlong])
  · refine startArena_of_checked ?_
    rw [hcheck, if_neg (by omega), if_neg (by omega), if_neg]
    rintro ⟨p, hp, hlong⟩
    exact absurd (hfit p hp) (Nat.not_le.mpr hlong)

/-! ### The end of a round -/

/-- No pass is wanted exactly where the cycle limit is reached or at most one agent lives (R186). -/
theorem passWanted_eq_false_iff {s : State} :
    passWanted s = false ↔
      s.cfg.cycleLimit ≤ s.cycle ∨ s.agents.countP (fun b => b.alive) ≤ 1 := by
  rw [← Bool.not_eq_true, passWanted_iff, not_and_or, Nat.not_lt, Nat.not_lt]

/-- Scoring adds the award to the score of each agent alive, and nothing to the others (R188). -/
theorem score_agents {s : State} (hm : s.cfg.mode = .arena) :
    (score s).agents = s.agents.map (fun a => { a with score := a.score +
      (if a.alive = true then (s.cfg.programs.length * s.cfg.programs.length - 1) /
        s.agents.countP (fun b => b.alive) else 0) }) := by
  refine List.map_congr_left fun a _ => ?_
  rw [agentCount_of_arena hm]
  split <;> rfl

/-- The end of a round changes of the agent table only what scoring changes, and writes no cell
(R187, R188). -/
theorem endRound_agents (s : State) : (endRound s).agents = (score s).agents := by
  unfold endRound; split <;> rfl

@[simp] theorem endRound_core (s : State) : (endRound s).core = s.core := by
  unfold endRound; split <;> rfl

/-- With a round left, the end of a round goes to it (R187). -/
theorem endRound_of_lt {s : State} (h : s.round + 1 < s.cfg.rounds) :
    endRound s = { score s with round := s.round + 1, phase := .loading } := if_pos h

/-- The end of the last round ends the arena (R189, R190). -/
theorem endRound_of_le {s : State} (h : s.cfg.rounds ≤ s.round + 1) :
    endRound s = { score s with round := s.cfg.rounds, arenaStatus := .done } :=
  if_neg (Nat.not_lt.mpr h)

/-- Only an arena that is DONE has a score vector (R189). -/
theorem scoreVector_of_not_done {s : State} (h : s.arenaStatus ≠ .done) : scoreVector s = none := by
  unfold scoreVector
  split
  next hs => exact absurd hs h
  next => rfl

/-- The result of an arena that is DONE is the scores of its agents (R189). -/
theorem scoreVector_of_done {s : State} (hm : s.cfg.mode = .arena) (hs : s.arenaStatus = .done) :
    scoreVector s = some (s.agents.map (fun a => a.score)) := by
  simp only [scoreVector, hm, hs]

/-- Settles O59. -/
theorem roundEndAwardsTheSurvivors : Obligations.RoundEndAwardsTheSurvivors := by
  intro s hm hr hp h0 hend
  refine ⟨endRound s, step_of_arena_roundEnd hm hr hp h0 (passWanted_eq_false_iff.mpr hend),
    .of_core (endRound_core s) (endRound_cfg s), (endRound_agents s).trans (score_agents hm),
    fun hlt => ?_, fun hle => ?_⟩
  · rw [endRound_of_lt hlt]
    have hrun : (score s).arenaStatus ≠ .done := fun h => nomatch hr.symm.trans h
    exact ⟨hr, rfl, rfl, scoreVector_of_not_done hrun⟩
  · rw [endRound_of_le hle]
    exact ⟨rfl, rfl, scoreVector_of_done hm rfl⟩

/-! ### One turn -/

/-- Settles O39. -/
theorem deadAgentsAreSkipped : Obligations.DeadAgentsAreSkipped := by
  intro s a hm hr hp ha hdead hw
  have hcur : curAlive s = false := by rw [curAlive, curAgent_of_some ha, hdead]
  rw [step_of_arena_pass hm hr hp fun h0 => passWanted_iff.mpr (hw h0), turnStep_of_dead hcur,
    ← agentCount_of_arena hm]
  exact ⟨fun hlt => by rw [nextTurn_of_lt hlt], fun hle => by rw [nextTurn_of_le hle]⟩

/-- An instruction changes no entry but the stepping agent's (R99). -/
theorem exec_getElem?_ne {i : Instr} {s t : State} (h : exec i s = .next t) {j : Nat}
    (hj : j ≠ cur s) : t.agents[j]? = s.agents[j]? := by
  obtain ⟨f, ht, -⟩ := exec_modifies_cur h
  rw [ht, List.getElem?_modify_ne _ _ hj.symm]

/-- Settles O58: a round's transition scores the living, steps a living agent or skips a turn. -/
theorem deadAgentsStayAsTheyDied : Obligations.DeadAgentsStayAsTheyDied := by
  intro s t j a hm hr hp ha hdead hstep
  cases step_shape hstep with
  | boot _ hm' | stop hm' | single _ hm' => exact nomatch hm.symm.trans hm'
  | start _ hs => exact nomatch hr.symm.trans hs
  | begin _ _ hp' => exact nomatch hp.symm.trans hp'
  | roundEnd =>
    rw [endRound_agents, score_agents hm, List.getElem?_map, ha, Option.map_some,
      if_neg (by simp [hdead]), Nat.add_zero]
  | turn u _ _ _ _ halive hu =>
    have hj : j ≠ cur s := fun hj => by
      rw [curAlive, curAgent_of_some (hj ▸ ha), hdead] at halive
      exact nomatch halive
    rw [nextTurn_agents, exec_getElem?_ne hu hj, ha]
  | skip => rw [nextTurn_agents, ha]

/-- A turn of a pass, of a living agent or of a dead one, moves TURN on from a state that differs from
the one before it in no controller register and no other agent's entry (R99, R184). -/
theorem step_of_turn {s : State} (hm : s.cfg.mode = .arena) (hr : s.arenaStatus = .running)
    (hp : s.phase = .running) (hw : s.turn = 0 → passWanted s = true) :
    ∃ u, step s = .next (nextTurn u) ∧ u.cfg = s.cfg ∧ u.arenaStatus = s.arenaStatus ∧
      u.phase = s.phase ∧ u.round = s.round ∧ u.cycle = s.cycle ∧ u.turn = s.turn ∧
      ∀ j, j ≠ cur s → u.agents[j]? = s.agents[j]? := by
  rw [step_of_arena_pass hm hr hp hw]
  cases halive : curAlive s with
  | false =>
    exact ⟨s, turnStep_of_dead halive, rfl, rfl, rfl, rfl, rfl, rfl, fun _ _ => rfl⟩
  | true =>
    obtain ⟨u, hu⟩ := exec_total (decode (fetch s)) s
    obtain ⟨hcfg, -, hturn, hcycle, hround, hphase, hstatus, -⟩ := exec_controller hu
    refine ⟨u, ?_, hcfg, hstatus, hphase, hround, hcycle, hturn, fun _ => exec_getElem?_ne hu⟩
    rw [turnStep, if_pos halive, stepAgent, hu]
    rfl

/-! ### One pass -/

/-- Offsets below the modulus that lead from one address to the same one are the same offset. -/
theorem eq_of_add_mod_eq {n r i j : Nat} (hi : i < n) (hj : j < n)
    (h : (r + i) % n = (r + j) % n) : i = j :=
  (Nat.ModEq.add_left_cancel' r h).eq_of_lt_of_lt hi hj

/-- The state `u` is the one before turn `j` of the pass that began in `s`: the entries of the agents
whose turns are still to come are as they were (R184, R186). -/
structure BeforeTurn (s : State) (j : Nat) (u : State) : Prop where
  cfg_eq : u.cfg = s.cfg
  arenaStatus_eq : u.arenaStatus = .running
  phase_eq : u.phase = .running
  round_eq : u.round = s.round
  cycle_eq : u.cycle = s.cycle
  turn_eq : u.turn = j
  wanted : u.turn = 0 → passWanted u = true
  coming : ∀ i, j ≤ i → i < s.cfg.programs.length →
    u.agents[(s.round + i) % s.cfg.programs.length]? =
      s.agents[(s.round + i) % s.cfg.programs.length]?

namespace BeforeTurn

/-- Before a pass that is wanted it is its turn 0 (R186). -/
theorem first {s : State} (hr : s.arenaStatus = .running) (hp : s.phase = .running)
    (h0 : s.turn = 0) (hw : passWanted s = true) : BeforeTurn s 0 s :=
  ⟨rfl, hr, hp, rfl, rfl, h0, fun _ => hw, fun _ _ _ => rfl⟩

variable {s u : State} {j : Nat} (h : BeforeTurn s j u)
include h

/-- Turn `j` is that of the agent at position `j` of the round's order (R183). -/
theorem cur_eq (hm : s.cfg.mode = .arena) : cur u = (s.round + j) % s.cfg.programs.length := by
  rw [cur_of_arena (h.cfg_eq ▸ hm), h.cfg_eq, h.round_eq, h.turn_eq]

/-- A turn that is not the last leads to the next one (R184). -/
theorem next (hm : s.cfg.mode = .arena) (hj : j + 1 < s.cfg.programs.length) :
    ∃ v, step u = .next v ∧ BeforeTurn s (j + 1) v := by
  obtain ⟨w, hstep, hcfg, hstatus, hphase, hround, hcycle, hturn, hothers⟩ :=
    step_of_turn (h.cfg_eq ▸ hm) h.arenaStatus_eq h.phase_eq h.wanted
  have hlt : w.turn + 1 < agentCount w.cfg := by
    rwa [hcfg, h.cfg_eq, agentCount_of_arena hm, hturn, h.turn_eq]
  have hnext : (nextTurn w).turn = j + 1 := by
    rw [nextTurn_of_lt hlt]; exact congrArg (· + 1) (hturn.trans h.turn_eq)
  refine ⟨nextTurn w, hstep,
    { cfg_eq := by rw [nextTurn_cfg, hcfg, h.cfg_eq]
      arenaStatus_eq := by rw [nextTurn_arenaStatus, hstatus, h.arenaStatus_eq]
      phase_eq := by rw [nextTurn_phase, hphase, h.phase_eq]
      round_eq := by rw [nextTurn_round, hround, h.round_eq]
      cycle_eq := by rw [nextTurn_of_lt hlt]; exact hcycle.trans h.cycle_eq
      turn_eq := hnext
      wanted := fun h0 => absurd (hnext.symm.trans h0) (Nat.succ_ne_zero j)
      coming := fun i hji hi => ?_ }⟩
  have hother : (s.round + i) % s.cfg.programs.length ≠ cur u := fun he => by
    rw [h.cur_eq hm] at he
    have := eq_of_add_mod_eq hi (by omega) he
    omega
  rw [nextTurn_agents, hothers _ hother, h.coming i (by omega) hi]

/-- The last turn ends the pass and counts it (R186). -/
theorem last (hm : s.cfg.mode = .arena) (hj : j + 1 = s.cfg.programs.length) :
    ∃ t, step u = .next t ∧ t.cfg = s.cfg ∧ t.turn = 0 ∧ t.cycle = s.cycle + 1 ∧
      t.round = s.round ∧ t.arenaStatus = .running ∧ t.phase = .running := by
  obtain ⟨w, hstep, hcfg, hstatus, hphase, hround, hcycle, hturn, -⟩ :=
    step_of_turn (h.cfg_eq ▸ hm) h.arenaStatus_eq h.phase_eq h.wanted
  have hle : agentCount w.cfg ≤ w.turn + 1 := by
    rw [hcfg, h.cfg_eq, agentCount_of_arena hm, hturn, h.turn_eq, hj]
  refine ⟨nextTurn w, hstep, ?_⟩
  rw [nextTurn_of_le hle]
  exact ⟨hcfg.trans h.cfg_eq, rfl, congrArg (· + 1) (hcycle.trans h.cycle_eq),
    hround.trans h.round_eq, hstatus.trans h.arenaStatus_eq, hphase.trans h.phase_eq⟩

end BeforeTurn

/-- The first `j` turns of a pass are `j` transitions (R184). -/
theorem runsTo_turn {s : State} {j : Nat} (hm : s.cfg.mode = .arena)
    (hr : s.arenaStatus = .running) (hp : s.phase = .running) (h0 : s.turn = 0)
    (hw : passWanted s = true) (hj : j < s.cfg.programs.length) :
    ∃ u, RunsTo j s u ∧ BeforeTurn s j u := by
  induction j with
  | zero => exact ⟨s, .zero s, .first hr hp h0 hw⟩
  | succ j ih =>
    obtain ⟨u, hrun, hu⟩ := ih (by omega)
    obtain ⟨v, hstep, hv⟩ := hu.next hm hj
    exact ⟨v, hrun.trans (.one hstep), hv⟩

/-- A wanted pass is K transitions, after which CYCLE is one more (R184, R186). -/
theorem runsTo_pass {s : State} (hm : s.cfg.mode = .arena) (hr : s.arenaStatus = .running)
    (hp : s.phase = .running) (h0 : s.turn = 0) (hw : passWanted s = true)
    (hk : 0 < s.cfg.programs.length) :
    ∃ t, RunsTo s.cfg.programs.length s t ∧ t.cfg = s.cfg ∧ t.turn = 0 ∧ t.cycle = s.cycle + 1 ∧
      t.round = s.round ∧ t.arenaStatus = .running ∧ t.phase = .running := by
  have hlast : s.cfg.programs.length - 1 + 1 = s.cfg.programs.length := Nat.sub_add_cancel hk
  obtain ⟨u, hrun, hu⟩ := runsTo_turn hm hr hp h0 hw (Nat.sub_lt hk Nat.one_pos)
  obtain ⟨t, hstep, ht⟩ := hu.last hm hlast
  exact ⟨t, hlast ▸ hrun.trans (.one hstep), ht⟩

/-- Settles O57, from the turns of a pass and its last. -/
theorem passOffersEachAgentOneTurnInOrder : Obligations.PassOffersEachAgentOneTurnInOrder := by
  intro s hm hr hp h0 hc halive hlen
  have hw : passWanted s = true := passWanted_iff.mpr ⟨hc, halive⟩
  have hk : 0 < s.cfg.programs.length := by
    have := List.countP_le_length (p := fun b : Agent => b.alive) (l := s.agents)
    omega
  refine ⟨fun j hj => ?_, ?_⟩
  · obtain ⟨u, hrun, hu⟩ := runsTo_turn hm hr hp h0 hw hj
    exact ⟨u, hrun, hu.turn_eq, hu.cur_eq hm, hu.coming⟩
  · obtain ⟨t, hrun, -, ht⟩ := runsTo_pass hm hr hp h0 hw hk
    exact ⟨t, hrun, ht⟩

/-! ### A whole run -/

/-- Within `n` transitions, at most `m` of which perform a step of an agent, the arena is DONE or
CONFIG_ERROR (R190, R191). -/
def EndsWithin (n m : Nat) (s : State) : Prop :=
  ∃ k t, k ≤ n ∧ agentSteps k s ≤ m ∧ RunsTo k s t ∧
    (t.arenaStatus = .done ∨ t.arenaStatus = .configError)

namespace EndsWithin

/-- An arena that has ended needs no transition. -/
theorem of_ended {s : State} (n m : Nat)
    (h : s.arenaStatus = .done ∨ s.arenaStatus = .configError) : EndsWithin n m s :=
  ⟨0, s, Nat.zero_le _, Nat.zero_le _, .zero s, h⟩

/-- Any transitions before an end, each a step at most (R10). -/
theorem after_run {k n m : Nat} {s t : State} (hrun : RunsTo k s t) (h : EndsWithin n m t) :
    EndsWithin (k + n) (k + m) s := by
  obtain ⟨l, u, hl, hm, hlu, hu⟩ := h
  refine ⟨k + l, u, Nat.add_le_add_left hl k, ?_, hrun.trans hlu, hu⟩
  rw [hrun.agentSteps_add]
  exact Nat.add_le_add (agentSteps_le k s) hm

/-- A transition of the scheduler's own before an end. -/
theorem after_step {n m : Nat} {s t : State} (hstep : step s = .next t)
    (hs : performsStep s = false) (h : EndsWithin n m t) : EndsWithin (n + 1) m s := by
  obtain ⟨l, u, hl, hm, hlu, hu⟩ := h
  refine ⟨l + 1, u, Nat.succ_le_succ hl, ?_, .succ hstep hlu, hu⟩
  rw [agentSteps_succ hstep, hs, if_neg Bool.false_ne_true, Nat.zero_add]
  exact hm

theorem mono {n m n' m' : Nat} {s : State} (h : EndsWithin n m s) (hn : n ≤ n') (hm : m ≤ m') :
    EndsWithin n' m' s := by
  obtain ⟨k, t, hk, hsteps, ht⟩ := h
  exact ⟨k, t, hk.trans hn, hsteps.trans hm, ht⟩

end EndsWithin

/-- The passes of a round end: after at most K transitions for each pass below the cycle limit no pass
is wanted (R186, R191). -/
theorem runsTo_roundEnd {s : State} (hm : s.cfg.mode = .arena) (hr : s.arenaStatus = .running)
    (hp : s.phase = .running) (h0 : s.turn = 0) (hk : 0 < s.cfg.programs.length) :
    ∃ k u, k ≤ (s.cfg.cycleLimit - s.cycle) * s.cfg.programs.length ∧ RunsTo k s u ∧
      u.cfg = s.cfg ∧ u.round = s.round ∧ u.arenaStatus = .running ∧ u.phase = .running ∧
      u.turn = 0 ∧ passWanted u = false := by
  induction hleft : s.cfg.cycleLimit - s.cycle generalizing s with
  | zero =>
    have hw : passWanted s = false := passWanted_eq_false_iff.mpr (.inl (by omega))
    exact ⟨0, s, Nat.zero_le _, .zero s, rfl, rfl, hr, hp, h0, hw⟩
  | succ left ih =>
    cases hw : passWanted s with
    | false => exact ⟨0, s, Nat.zero_le _, .zero s, rfl, rfl, hr, hp, h0, hw⟩
    | true =>
      obtain ⟨t, hrun, hcfg, hturn, hcycle, hround, hstatus, hphase⟩ :=
        runsTo_pass hm hr hp h0 hw hk
      obtain ⟨k, u, hle, hrun', hcfg', hround', hrest⟩ := ih (hcfg ▸ hm) hstatus hphase hturn
        (hcfg ▸ hk) (by rw [hcfg, hcycle]; omega)
      rw [hcfg] at hle
      exact ⟨s.cfg.programs.length + k, u, by rw [Nat.succ_mul]; omega, hrun.trans hrun',
        hcfg'.trans hcfg, hround'.trans hround, hrest⟩

/-- What the head of the round loop leaves of a running arena: a round at TURN 0 and CYCLE 0, or a run
that has ended (R175, R177, R181). -/
theorem beginRound_status (s : State) (hr : s.arenaStatus = .running) :
    (s.round < s.cfg.rounds ∧ (beginRound s).arenaStatus = .running ∧
        (beginRound s).phase = .running ∧ (beginRound s).round = s.round ∧
        (beginRound s).cycle = 0 ∧ (beginRound s).turn = 0) ∨
      (beginRound s).arenaStatus = .done ∨ (beginRound s).arenaStatus = .configError := by
  obtain ⟨hlt, hb⟩ | ⟨-, hb⟩ | ⟨-, hb⟩ := beginRound_cases s
  · rw [hb, place_frame]
    exact .inl ⟨hlt, hr, rfl, rfl, rfl, rfl⟩
  · rw [hb]; exact .inr (.inr rfl)
  · rw [hb]; exact .inr (.inl rfl)

/-- The start of a round before an end (R175). -/
theorem EndsWithin.after_beginRound {s : State} {n m : Nat} (hm : s.cfg.mode = .arena)
    (hr : s.arenaStatus = .running) (hp : s.phase = .loading)
    (h : EndsWithin n m (beginRound s)) : EndsWithin (n + 1) m s :=
  h.after_step (step_of_arena_loading hm hr hp)
    (performsStep_of_arena_eq_false hm (.inr (.inl (by rw [hp]; decide))))

/-- After the end of a round the arena is DONE, or it is about to load the next round (R187, R190). -/
theorem EndsWithin.endRound {s : State} {n m : Nat} (hr : s.arenaStatus = .running)
    (h : ∀ t : State, t.cfg = s.cfg → t.arenaStatus = .running → t.phase = .loading →
      t.round = s.round + 1 → EndsWithin n m t) : EndsWithin n m (endRound s) := by
  by_cases hlt : s.round + 1 < s.cfg.rounds
  · rw [endRound_of_lt hlt]
    exact h _ rfl hr rfl rfl
  · rw [endRound_of_le (Nat.not_lt.mp hlt)]
    exact .of_ended _ _ (.inl rfl)

/-- The passes of a round and its end, before the end of the run (R186, R187). -/
theorem EndsWithin.after_round {s : State} {n m : Nat} (hm : s.cfg.mode = .arena)
    (hr : s.arenaStatus = .running) (hp : s.phase = .running) (h0 : s.turn = 0)
    (hk : 0 < s.cfg.programs.length)
    (h : ∀ t : State, t.cfg = s.cfg → t.arenaStatus = .running → t.phase = .loading →
      t.round = s.round + 1 → EndsWithin n m t) :
    EndsWithin ((s.cfg.cycleLimit - s.cycle) * s.cfg.programs.length + (n + 1))
      ((s.cfg.cycleLimit - s.cycle) * s.cfg.programs.length + m) s := by
  obtain ⟨k, u, hle, hrun, hcfg, hround, hstatus, hphase, hturn, hw⟩ :=
    runsTo_roundEnd hm hr hp h0 hk
  have hum : u.cfg.mode = .arena := hcfg ▸ hm
  have hend : EndsWithin n m (Machine.endRound u) :=
    .endRound hstatus fun t ht ht' hp' hr' => h t (ht.trans hcfg) ht' hp' (hround ▸ hr')
  have hstep : EndsWithin (n + 1) m u :=
    hend.after_step (step_of_arena_roundEnd hum hstatus hphase hturn hw)
      (performsStep_of_arena_eq_false hum (.inr (.inr ⟨hturn, hw⟩)))
  exact (hstep.after_run hrun).mono (Nat.add_le_add_right hle _) (Nat.add_le_add_right hle _)

/-- The rounds left of a running arena end: each takes its start, at most C passes of K turns and its
end (R175, R191). -/
theorem rounds_endWithin {s : State} (hm : s.cfg.mode = .arena) (hr : s.arenaStatus = .running)
    (hp : s.phase = .loading) (hk : 0 < s.cfg.programs.length) :
    EndsWithin
      ((s.cfg.rounds - s.round) * (s.cfg.cycleLimit * s.cfg.programs.length + 2) + 1)
      ((s.cfg.rounds - s.round) * (s.cfg.cycleLimit * s.cfg.programs.length)) s := by
  induction hleft : s.cfg.rounds - s.round generalizing s with
  | zero =>
    refine .after_beginRound hm hr hp ?_
    obtain ⟨hlt, -⟩ | hend := beginRound_status s hr
    · omega
    · exact .of_ended _ _ hend
  | succ left ih =>
    refine .after_beginRound hm hr hp ?_
    obtain ⟨hlt, hstatus, hphase, hround, hcycle, hturn⟩ | hend := beginRound_status s hr
    · have hcfg := beginRound_cfg s
      have hrounds : ∀ t : State, t.cfg = (beginRound s).cfg → t.arenaStatus = .running →
          t.phase = .loading → t.round = (beginRound s).round + 1 →
          EndsWithin (left * (s.cfg.cycleLimit * s.cfg.programs.length + 2) + 1)
            (left * (s.cfg.cycleLimit * s.cfg.programs.length)) t := fun t ht ht' hp' hr' => by
        replace ht := ht.trans hcfg
        rw [← ht]
        exact ih (ht ▸ hm) ht' hp' (ht ▸ hk) (by rw [ht, hr', hround]; omega)
      have hround_end := EndsWithin.after_round (hcfg ▸ hm) hstatus hphase hturn (hcfg ▸ hk) hrounds
      rw [hcfg, hcycle, Nat.sub_zero] at hround_end
      exact hround_end.mono (by rw [Nat.succ_mul]; omega) (by rw [Nat.succ_mul]; omega)
    · exact .of_ended _ _ hend

/-- Settles O60: the start of the arena, and then all its rounds. -/
theorem arenaRunsEnd : Obligations.ArenaRunsEnd := by
  intro s hm hs
  have hquiet : performsStep s = false :=
    performsStep_of_arena_eq_false hm (.inl (by rw [hs]; decide))
  have hends : EndsWithin
      (s.cfg.rounds * (s.cfg.cycleLimit * s.cfg.programs.length + 2) + 1)
      (s.cfg.rounds * (s.cfg.cycleLimit * s.cfg.programs.length)) (startArena s) := by
    obtain ⟨e, he⟩ | ⟨hcheck, he⟩ := startArena_cases s
    · rw [he]; exact .of_ended _ _ (.inr rfl)
    · have hk := two_le_agentCount_of_checked hcheck
      rw [agentCount_of_arena hm] at hk
      rw [he]
      exact rounds_endWithin (s := { construct s with
        arenaStatus := .running, configError := none, phase := .loading }) hm rfl rfl
        (Nat.lt_of_lt_of_le Nat.two_pos hk)
  rw [Nat.mul_assoc]
  exact hends.after_step (step_of_arena_idle hm hs) hquiet

end Sys2Proof.Machine
end

section
/-! PROOFS. Windows, draws and placement (spec/60_exceptions.md R172, R178 to R181): which addresses a
window holds, how far it keeps two starts apart, and which placements can happen. -/

namespace Sys2Proof.Machine

/-! ### The exclusion window -/

/-- The members of an exclusion window (R179). -/
theorem mem_exclusion {c : RunConfig} {start a : Nat} (hn : 0 < c.coreSize) :
    a ∈ exclusion c start ↔
      ∃ k : Int, -((c.separation : Int) + c.maxLen) ≤ k ∧ k ≤ (c.maxLen : Int) + c.separation ∧
        (a : Int) = (start + k) % c.coreSize := by
  rw [exclusion, mem_window hn, Nat.cast_add, add_comm (c.maxLen : Int)]

/-- A residue at most S + M away from a start is in its window (R179). -/
theorem wrap_mem_exclusion {c : RunConfig} (hn : 0 < c.coreSize) (start : Nat) {k : Int}
    (hlo : -((c.separation : Int) + c.maxLen) ≤ k) (hhi : k ≤ (c.maxLen : Int) + c.separation) :
    wrap c.coreSize (start + k) ∈ exclusion c start :=
  (mem_exclusion hn).mpr ⟨k, hlo, hhi, wrap_cast hn _⟩

/-- A start in the core is in its own window (R179). -/
theorem self_mem_exclusion {c : RunConfig} {start : Nat} (h : start < c.coreSize) :
    start ∈ exclusion c start := by
  have hself := wrap_mem_exclusion (Nat.zero_lt_of_lt h) start (k := 0) (by omega) (by omega)
  rwa [add_zero, wrap_of_lt h] at hself

/-- A window of N or more addresses is the whole core (R179): the distance from the window's first
address to any other is below N. -/
theorem mem_exclusion_of_whole {c : RunConfig} {a : Nat} (start : Nat)
    (hw : c.coreSize ≤ 2 * (c.separation + c.maxLen) + 1) (ha : a < c.coreSize) :
    a ∈ exclusion c start := by
  have hn := Nat.zero_lt_of_lt ha
  obtain ⟨w, hwidth⟩ : ∃ w : Int, w = c.separation + c.maxLen := ⟨_, rfl⟩
  have hd := wrap_lt hn ((a : Int) - start + w)
  have hk := wrap_mem_exclusion hn start (k := wrap c.coreSize ((a : Int) - start + w) - w)
    (by omega) (by omega)
  have hmove : (start : Int) + (wrap c.coreSize ((a : Int) - start + w) - w) =
      wrap c.coreSize ((a : Int) - start + w) + (start - w) := by ring
  have hback : (a : Int) - start + w + (start - w) = a := by ring
  rwa [hmove, wrap_add_wrap hn, hback, wrap_of_lt ha] at hk

/-- Settles O51. -/
theorem exclusionWindowWrapsBothEndsIncluded : Obligations.ExclusionWindowWrapsBothEndsIncluded :=
  fun _ start hn => ⟨fun _ => mem_exclusion hn, self_mem_exclusion,
    fun hw _ => mem_exclusion_of_whole start hw⟩

/-! ### What lies outside a window -/

section Outside

variable {c : RunConfig} {a b : Nat}

/-- Being in each other's window is symmetric (R179). -/
theorem mem_exclusion_symm (ha : a < c.coreSize) (h : b ∈ exclusion c a) : a ∈ exclusion c b := by
  have hn := Nat.zero_lt_of_lt ha
  obtain ⟨k, hlo, hhi, hb⟩ := (mem_exclusion hn).mp h
  have hback := wrap_mem_exclusion hn b (k := -k) (by omega) (by omega)
  rwa [hb, ← wrap_cast hn, wrap_add_wrap hn, add_neg_cancel_right, wrap_of_lt ha] at hback

/-- A start outside a window is more than S + M cells after the window's own start (R193). -/
theorem lt_dist_of_not_mem_exclusion (ha : a < c.coreSize) (hb : b < c.coreSize)
    (h : b ∉ exclusion c a) :
    c.maxLen + c.separation + 1 ≤ (b + c.coreSize - a) % c.coreSize := by
  by_contra hlt
  have hn := Nat.zero_lt_of_lt ha
  have hin := wrap_mem_exclusion hn a (k := ((b + c.coreSize - a) % c.coreSize : Nat))
    (by omega) (by omega)
  have hsum : a + (b + c.coreSize - a) = b + c.coreSize := by omega
  rw [← Nat.cast_add, wrap_natCast, Nat.add_mod_mod, hsum, Nat.add_mod_right,
    Nat.mod_eq_of_lt hb] at hin
  exact h hin

/-- Programs of at most M symbols whose starts are outside each other's window have no cell in
common (R179, R182). -/
theorem add_mod_ne_of_not_mem_exclusion (hb : b < c.coreSize) (h : b ∉ exclusion c a) {i j : Nat}
    (hi : i < c.maxLen) (hj : j < c.maxLen) : (b + j) % c.coreSize ≠ (a + i) % c.coreSize := by
  intro heq
  have hn := Nat.zero_lt_of_lt hb
  have hin := wrap_mem_exclusion hn a (k := (i : Int) - j) (by omega) (by omega)
  have hcell : wrap c.coreSize ((a : Int) + ((i : Int) - j)) = b := calc
    wrap c.coreSize ((a : Int) + ((i : Int) - j))
      = wrap c.coreSize (((a + i : Nat) : Int) + -j) := by push_cast; ring_nf
    _ = wrap c.coreSize (((b + j : Nat) : Int) + -j) := by
        rw [← wrap_add_wrap hn, wrap_natCast, ← heq, ← wrap_natCast, wrap_add_wrap hn]
    _ = b := by rw [Nat.cast_add, add_neg_cancel_right, wrap_of_lt hb]
  exact h (hcell ▸ hin)

end Outside

/-! ### Draws -/

/-- A member is drawn by the answer that is its index (R172). -/
theorem draw_idxOf {f : List Nat} {a : Nat} (h : a ∈ f) : draw f (f.idxOf a) = some a := by
  rw [draw, Nat.mod_eq_of_lt (List.idxOf_lt_length_iff.mpr h), List.getElem?_idxOf h]

/-- Every answer draws something from a set that is not empty (R172). -/
theorem exists_draw {f : List Nat} (hf : f ≠ []) (x : Nat) : ∃ a ∈ f, draw f x = some a := by
  have hlt : x % f.length < f.length := Nat.mod_lt x (List.length_pos_iff.mpr hf)
  exact ⟨_, List.getElem_mem hlt, List.getElem?_eq_getElem hlt⟩

/-- Nothing is drawn from the empty set (R172, R181). -/
@[simp] theorem draw_nil (x : Nat) : draw [] x = none := rfl

/-- Settles O52. -/
theorem drawMayAnswerAnyMember : Obligations.DrawMayAnswerAnyMember :=
  fun _ => ⟨fun x hf => exists_draw hf x, fun _ ha => ⟨_, draw_idxOf ha⟩, draw_nil⟩

/-! ### Starts that are allowed -/

/-- The starts of the agents, in the order of the table. -/
abbrev State.starts (s : State) : List Nat := s.agents.map (fun a => a.start)

/-- The starts may be given to agents one after the other when `res` is reserved before: each is an
address of the core outside `res` and outside the windows of those before it (R180). -/
def AllowedStarts (c : RunConfig) (res starts : List Nat) : Prop :=
  (∀ a ∈ starts, a < c.coreSize ∧ a ∉ res) ∧ starts.Pairwise (fun x y => y ∉ exclusion c x)

theorem allowedStarts_nil (c : RunConfig) (res : List Nat) : AllowedStarts c res [] :=
  ⟨fun _ h => absurd h List.not_mem_nil, .nil⟩

/-- A first start is allowed when it is unreserved, and the later ones when its window is reserved
too (R180). -/
theorem allowedStarts_cons {c : RunConfig} {res rest : List Nat} {a : Nat} :
    AllowedStarts c res (a :: rest) ↔
      a ∈ unreserved c.coreSize res ∧ AllowedStarts c (res ++ exclusion c a) rest := by
  simp only [AllowedStarts, List.forall_mem_cons, List.pairwise_cons, mem_unreserved,
    List.mem_append, not_or]
  constructor
  · rintro ⟨⟨ha, hrest⟩, hwin, hpair⟩
    refine ⟨ha, fun b hb => ?_, hpair⟩
    obtain ⟨hlt, hres⟩ := hrest b hb
    exact ⟨hlt, hres, hwin b hb⟩
  · rintro ⟨ha, hrest, hpair⟩
    refine ⟨⟨ha, fun b hb => ?_⟩, fun b hb => ?_, hpair⟩
    · obtain ⟨hlt, hres, -⟩ := hrest b hb
      exact ⟨hlt, hres⟩
    · obtain ⟨-, -, hwin⟩ := hrest b hb
      exact hwin

/-- An allowed start is an address of the core (R180). -/
theorem AllowedStarts.start_lt {c : RunConfig} {res : List Nat} {s : State}
    (h : AllowedStarts c res s.starts) {i : Nat} {a : Agent} (ha : s.agents[i]? = some a) :
    a.start < c.coreSize :=
  (h.1 _ (List.mem_map_of_mem (f := fun a => a.start) (List.mem_of_getElem? ha))).1

/-- An allowed start is outside the windows of the agents before its own (R180). -/
theorem AllowedStarts.not_mem_exclusion {c : RunConfig} {res : List Nat} {s : State}
    (h : AllowedStarts c res s.starts) {i j : Nat} {a b : Agent} (hij : i < j)
    (ha : s.agents[i]? = some a) (hb : s.agents[j]? = some b) :
    b.start ∉ exclusion c a.start := by
  obtain ⟨hi, rfl⟩ := List.getElem?_eq_some_iff.mp ha
  obtain ⟨hj, rfl⟩ := List.getElem?_eq_some_iff.mp hb
  exact List.pairwise_iff_getElem.mp (List.pairwise_map.mp h.2) i j hi hj hij

/-- Setting a start sets it in the list of starts. -/
theorem setStart_starts (s : State) (i v : Nat) : (setStart s i v).starts = s.starts.set i v := by
  refine List.ext_getElem? fun j => ?_
  simp only [State.starts, setStart, List.getElem?_map, List.getElem?_modify, List.getElem?_set,
    List.length_map]
  by_cases hij : i = j
  · subst hij
    by_cases hi : i < s.agents.length <;> simp [hi]
  · simp [hij]

@[simp] theorem setStart_length (s : State) (i v : Nat) :
    (setStart s i v).agents.length = s.agents.length := List.length_modify ..

/-- Up to the agent whose start was set, the starts are those before it and the one set. -/
theorem setStart_starts_take {s : State} {i : Nat} (h : i < s.agents.length) (v : Nat)
    (rest : List Nat) :
    (setStart s i v).starts.take (i + 1) ++ rest = s.starts.take i ++ v :: rest := by
  have hi : i < (s.starts.set i v).length := by rwa [List.length_set, List.length_map]
  rw [setStart_starts, ← List.take_append_getElem hi, List.getElem_set_self,
    List.take_set_of_le (Nat.le_refl i), List.append_assoc, List.singleton_append]

/-- As many starts as there are agents are all the starts. -/
theorem starts_take_length {s : State} {i : Nat} (h : i = s.agents.length) :
    s.starts.take i ++ [] = s.starts := by
  rw [List.append_nil, List.take_of_length_le (by rw [List.length_map, h])]

/-! ### The placement loop -/

/-- An unreserved draw is the start of the next agent, and its window is reserved (R180). -/
theorem placeFrom_succ_of_some {todo i a : Nat} {res : List Nat} {s : State}
    (h : draw (unreserved s.cfg.coreSize res) (drawAnswer s) = some a) :
    placeFrom (todo + 1) i res s =
      placeFrom todo (i + 1) (res ++ exclusion s.cfg a)
        (setStart { s with drawPos := s.drawPos + 1 } i a) := by
  rw [placeFrom, h]

/-- Where nothing is unreserved the placement fails (R181). -/
theorem placeFrom_succ_of_none {todo i : Nat} {res : List Nat} {s : State}
    (h : draw (unreserved s.cfg.coreSize res) (drawAnswer s) = none) :
    placeFrom (todo + 1) i res s = (false, s) := by
  rw [placeFrom, h]

/-- The starts a successful placement gives are allowed (R180). -/
theorem placeFrom_allowed {todo i : Nat} {res : List Nat} {s t : State}
    (h : placeFrom todo i res s = (true, t)) (hlen : i + todo = s.agents.length) :
    ∃ rest, t.starts = s.starts.take i ++ rest ∧ AllowedStarts s.cfg res rest := by
  induction todo generalizing i res s with
  | zero =>
    obtain rfl : s = t := congrArg Prod.snd h
    exact ⟨[], (starts_take_length hlen).symm, allowedStarts_nil _ _⟩
  | succ todo ih =>
    cases hdraw : draw (unreserved s.cfg.coreSize res) (drawAnswer s) with
    | none => rw [placeFrom_succ_of_none hdraw] at h; exact nomatch congrArg Prod.fst h
    | some a =>
      rw [placeFrom_succ_of_some hdraw] at h
      have hnext : i + 1 + todo = s.agents.length := by omega
      obtain ⟨rest, hstarts, hrest⟩ := ih h (hnext.trans (setStart_length ..).symm)
      have hi : i < s.agents.length := by omega
      exact ⟨a :: rest, hstarts.trans (setStart_starts_take hi a rest),
        allowedStarts_cons.mpr ⟨draw_mem hdraw, hrest⟩⟩

/-- The answers of the random channel that draw the given starts, from a core of `n` cells with
windows of `w` cells to each side and `res` reserved: each start's index among the unreserved
addresses (R172, R180). -/
def answersFor (n w : Nat) : List Nat → List Nat → List Nat
  | _, [] => []
  | res, a :: rest =>
    (unreserved n res).idxOf a :: answersFor n w (res ++ window n w a) rest

/-- Allowed starts are given by a channel whose next answers are those that draw them (R172, R180). -/
theorem placeFrom_of_answers {rest : List Nat} {i : Nat} {res : List Nat} {s : State}
    (h : AllowedStarts s.cfg res rest) (hlen : i + rest.length = s.agents.length)
    (hans : s.cfg.draws.drop s.drawPos =
      answersFor s.cfg.coreSize (s.cfg.separation + s.cfg.maxLen) res rest) :
    ∃ t, placeFrom rest.length i res s = (true, t) ∧ t.starts = s.starts.take i ++ rest := by
  induction rest generalizing i res s with
  | nil =>
    exact ⟨s, rfl, (starts_take_length hlen).symm⟩
  | cons a rest ih =>
    obtain ⟨ha, hrest⟩ := allowedStarts_cons.mp h
    rw [List.length_cons] at hlen
    have hanswer : drawAnswer s = (unreserved s.cfg.coreSize res).idxOf a := by
      have hhead := congrArg (·[0]?) hans
      simp only [List.getElem?_drop, Nat.add_zero] at hhead
      rw [drawAnswer, hhead]
      rfl
    have hdraw : draw (unreserved s.cfg.coreSize res) (drawAnswer s) = some a :=
      hanswer ▸ draw_idxOf ha
    have htail := congrArg List.tail hans
    rw [List.tail_drop] at htail
    have hnext : i + 1 + rest.length = s.agents.length := by omega
    obtain ⟨t, ht, hstarts⟩ := ih (s := setStart { s with drawPos := s.drawPos + 1 } i a) hrest
      (hnext.trans (setStart_length ..).symm) htail
    have hi : i < s.agents.length := by omega
    exact ⟨t, (placeFrom_succ_of_some hdraw).trans ht,
      hstarts.trans (setStart_starts_take hi a rest)⟩

/-! ### The whole placement -/

/-- A placement that succeeds leaves agent 0 at the anchor and allowed starts (R178, R180). -/
theorem place_allowed {s t : State} (h : place s = (true, t)) (hn : 0 < s.cfg.coreSize)
    (hk : 0 < agentCount s.cfg) (hlen : s.agents.length = agentCount s.cfg) :
    t.starts[0]? = some 0 ∧ AllowedStarts s.cfg [] t.starts := by
  obtain ⟨rest, hstarts, hrest⟩ := placeFrom_allowed h (by rw [setStart_length]; omega)
  rw [setStart_starts_take (hlen ▸ hk), List.take_zero, List.nil_append] at hstarts
  rw [hstarts]
  exact ⟨rfl, allowedStarts_cons.mpr ⟨mem_unreserved.mpr ⟨hn, List.not_mem_nil⟩, hrest⟩⟩

/-- A placement gives any allowed starts that begin with the anchor when the channel's next answers
are those that draw the others (R172, R178, R180). -/
theorem place_of_answers {s : State} {rest : List Nat} (hlen : s.agents.length = agentCount s.cfg)
    (hrest : rest.length + 1 = agentCount s.cfg) (h : AllowedStarts s.cfg [] (anchor :: rest))
    (hans : s.cfg.draws.drop s.drawPos = answersFor s.cfg.coreSize
      (s.cfg.separation + s.cfg.maxLen) (exclusion s.cfg anchor) rest) :
    ∃ t, place s = (true, t) ∧ t.starts = anchor :: rest := by
  have hpos : 0 < s.agents.length := by omega
  obtain ⟨t, ht, hstarts⟩ := placeFrom_of_answers (i := 1) (s := setStart s 0 anchor)
    (allowedStarts_cons.mp h).2 (by rw [setStart_length]; omega) hans
  rw [setStart_starts_take hpos, List.take_zero, List.nil_append] at hstarts
  refine ⟨t, ?_, hstarts⟩
  rw [place, ← hrest, Nat.add_sub_cancel]
  exact ht

/-- Settles O53: the channel answers with the index of each start after agent 0's. -/
theorem everyAllowedPlacementCanHappen : Obligations.EveryAllowedPlacementCanHappen := by
  intro s starts given hm hk hlen hslen hgiven hzero hlt hpair
  obtain _ | ⟨a, rest⟩ := starts
  · exact nomatch hzero
  obtain rfl : a = anchor := Option.some.inj hzero
  have hallowed : AllowedStarts s.cfg [] (anchor :: rest) :=
    ⟨fun a ha => ⟨hlt a ha, List.not_mem_nil⟩, hpair⟩
  have hcount := agentCount_of_arena hm
  exact ⟨_, place_of_answers
    (s := { s with cfg := { s.cfg with draws := given ++ (answersFor s.cfg.coreSize
      (s.cfg.separation + s.cfg.maxLen) (exclusion s.cfg anchor) rest) } })
    (hlen.trans hcount.symm) (hslen.trans hcount.symm) hallowed (List.drop_left' hgiven)⟩

/-- Two or more agents cannot be placed where the anchor's window is the whole core (R181). -/
theorem place_of_whole {s : State} (hk : 2 ≤ agentCount s.cfg)
    (hw : s.cfg.coreSize ≤ 2 * (s.cfg.separation + s.cfg.maxLen) + 1) : (place s).1 = false := by
  have hempty : unreserved s.cfg.coreSize (exclusion s.cfg anchor) = [] := by
    refine List.eq_nil_iff_forall_not_mem.mpr fun a ha => ?_
    obtain ⟨hlt, hout⟩ := mem_unreserved.mp ha
    exact hout (mem_exclusion_of_whole anchor hw hlt)
  obtain ⟨todo, htodo⟩ : ∃ todo, agentCount s.cfg - 1 = todo + 1 := ⟨agentCount s.cfg - 2, by omega⟩
  rw [place, htodo, placeFrom_succ_of_none]
  exact hempty ▸ draw_nil _

/-- What does not depend on the start, a placement keeps of every entry (R180). -/
theorem place_map {β : Type} (g : Agent → β) (hg : ∀ a, g { a with start := 0 } = g a) (s : State) :
    (place s).2.agents.map g = s.agents.map g := by
  have hzero (as : List Agent) : as.map g = (as.map (fun a => { a with start := 0 })).map g := by
    rw [List.map_map]
    exact List.map_congr_left fun a _ => (hg a).symm
  have hset : (s.agents.modify 0 (fun a => { a with start := anchor })).map g = s.agents.map g :=
    map_modify_of_keeps _ _ fun a => hg a
  rw [hzero, place, (placeFrom_frame _ _ _ _).2, ← hzero]
  exact hset

end Sys2Proof.Machine
end

section
/-! PROOFS. The start of a round (spec/60_exceptions.md R177, R181, R182, R193): what a load leaves, what
the loads of several programs leave, and what a placement that succeeds or fails makes of an arena. -/

namespace Sys2Proof.Machine

/-! ### One load -/

/-- A load counts the symbols of its program (R201). -/
theorem load_len (n : Nat) (p : Program) (m : Memory) (o : Nat) :
    (load n p m o).len = programLength p :=
  (loadFrom_len n p m o 0).trans (Nat.zero_add _)

/-- The loader's cursor moves one cell for each symbol (R201). -/
theorem loadFrom_cursor {n : Nat} (p : Program) (m : Memory) {c : Nat} (k : Nat) (hc : c < n) :
    (loadFrom n p m c k).cursor = (c + programLength p) % n := by
  induction p generalizing m c k with
  | nil => exact (Nat.mod_eq_of_lt hc).symm
  | cons ch rest ih =>
    cases h : ofSymbol ch with
    | none =>
      rw [loadFrom_cons_none h, ih _ _ hc, programLength, programLength, recognise_cons_none h]
    | some i =>
      rw [loadFrom_cons_some h, ih _ _ (Nat.mod_lt _ (Nat.zero_lt_of_lt hc)), next_cursor_add_mod,
        programLength, programLength, recognise_cons_some h, List.length_cons]

/-- The cursor a load returns (R201). -/
theorem load_cursor {n : Nat} (p : Program) (m : Memory) {o : Nat} (ho : o < n) :
    (load n p m o).cursor = (o + programLength p) % n := loadFrom_cursor p m 0 ho

/-- A program no longer than the core does not run into itself: each of its symbols is held (R201,
R202). -/
theorem HoldsProgram.get_of_length_le {get : Nat → Nibble} {n o : Nat} {is : List Instr}
    (h : HoldsProgram get n o is) (hlen : is.length ≤ n) {j : Nat} {i : Instr}
    (hi : is[j]? = some i) : get ((o + j) % n) = opcode i := by
  have hj : j < is.length := (List.getElem?_eq_some_iff.mp hi).1
  refine h j i hi fun j' hjj' hj' heq => ?_
  have := eq_of_add_mod_eq (by omega) (by omega) heq
  omega

/-! ### The loads of the table -/

/-- The cells of the program of a pair are those of its load from the start of its agent (R182). -/
abbrev OutsidePair (n : Nat) (q : Program × Agent) (x : Nat) : Prop :=
  OutsideLoad n q.2.start (programLength q.1) x

/-- The loads of the table change no cell outside all their programs (R182, R201). -/
theorem loadAgents_get_outside {n x : Nat} (ps : List Program) (as : List Agent) (m : Memory)
    (h : ∀ q ∈ ps.zip as, OutsidePair n q x) : (loadAgents n ps as m).1.get x = m.get x := by
  induction ps generalizing as m with
  | nil => rfl
  | cons p ps ih =>
    obtain _ | ⟨a, as⟩ := as
    · rfl
    · obtain ⟨hfirst, hrest⟩ := List.forall_mem_cons.mp h
      exact (ih as _ hrest).trans (loadFrom_get_outside p m _ 0 hfirst)

/-- Where no later load covers a cell of an earlier program, every program of the table is whole after
the loads (R182). -/
theorem loadAgents_get_program {n : Nat} (ps : List Program) (as : List Agent) (m : Memory)
    (hlen : ∀ q ∈ ps.zip as, programLength q.1 ≤ n)
    (hapart : (ps.zip as).Pairwise (fun q r =>
      ∀ j < programLength q.1, OutsidePair n r ((q.2.start + j) % n))) :
    ∀ q ∈ ps.zip as, ∀ (j : Nat) (i : Instr), (recognise q.1)[j]? = some i →
      (loadAgents n ps as m).1.get ((q.2.start + j) % n) = opcode i := by
  induction ps generalizing as m with
  | nil => exact fun _ h => absurd h List.not_mem_nil
  | cons p ps ih =>
    obtain _ | ⟨a, as⟩ := as
    · exact fun _ h => absurd h List.not_mem_nil
    · obtain ⟨hplen, hrest⟩ := List.forall_mem_cons.mp hlen
      obtain ⟨hfirst, hpair⟩ := List.pairwise_cons.mp hapart
      refine List.forall_mem_cons.mpr ⟨fun j i hi => ?_, ih as _ hrest hpair⟩
      have hj : j < programLength p := (List.getElem?_eq_some_iff.mp hi).1
      have hwhole := (loadFrom_holdsProgram n p m a.start 0).get_of_length_le hplen hi
      exact (loadAgents_get_outside ps as _ fun r hr => hfirst r hr j hj).trans hwhole

/-- The entry of an agent after its load (R182). -/
theorem loadAgents_getElem? {n : Nat} {ps : List Program} {as : List Agent} (m : Memory) {i : Nat}
    {p : Program} {a : Agent} (hp : ps[i]? = some p) (ha : as[i]? = some a) :
    ∃ m', (loadAgents n ps as m).2[i]? = some (loadedAgent a (load n p m' a.start)) := by
  induction ps generalizing as m i with
  | nil => exact nomatch hp
  | cons p' ps ih =>
    obtain _ | ⟨a', as⟩ := as
    · exact nomatch ha
    · cases i with
      | zero =>
        obtain rfl : p' = p := Option.some.inj hp
        obtain rfl : a' = a := Option.some.inj ha
        exact ⟨m, rfl⟩
      | succ i => exact ih _ hp ha

/-! ### Placed agents -/

/-- `u` is what RoundInit and a placement that succeeds leave of `s`: a zero core, CYCLE and TURN 0, no
agent with a halt cause, the scores kept, agent 0 at the anchor and allowed starts (R177 to R180). -/
structure RoundPlaced (s u : State) : Prop where
  frame : u = { s with core := [], cycle := 0, turn := 0, agents := u.agents, drawPos := u.drawPos }
  length_eq : u.agents.length = s.agents.length
  scores_eq : u.agents.map (fun a => a.score) = s.agents.map (fun a => a.score)
  haltCause_eq : ∀ a ∈ u.agents, a.haltCause = .none
  first : u.starts[0]? = some 0
  allowed : AllowedStarts s.cfg [] u.starts

/-- What RoundInit and Place leave of every entry, whether the placement succeeds or not: its score,
and no life and no halt cause (R177, R180, R181). -/
theorem place_roundInit_agents (s : State) :
    (place (roundInit s)).2.agents.map (fun a => (a.score, a.alive, a.haltCause)) =
      s.agents.map (fun a => (a.score, false, .none)) :=
  (place_map (fun a => (a.score, a.alive, a.haltCause)) (fun _ => rfl) _).trans (List.map_map ..)

/-- RoundInit and Place keep the scores (R177, R181). -/
theorem place_roundInit_scores (s : State) :
    (place (roundInit s)).2.agents.map (fun a => a.score) = s.agents.map (fun a => a.score) := by
  have h := congrArg (List.map Prod.fst) (place_roundInit_agents s)
  rwa [List.map_map, List.map_map] at h

/-- No agent is alive or has a cause between RoundInit and the loads (R177). -/
theorem place_roundInit_dead {s : State} {a : Agent} (ha : a ∈ (place (roundInit s)).2.agents) :
    a.alive = false ∧ a.haltCause = .none := by
  have hmem := List.mem_map_of_mem (f := fun a => (a.score, a.alive, a.haltCause)) ha
  rw [place_roundInit_agents] at hmem
  obtain ⟨b, -, hb⟩ := List.mem_map.mp hmem
  obtain ⟨-, hb⟩ := Prod.mk.inj hb
  obtain ⟨halive, hcause⟩ := Prod.mk.inj hb
  exact ⟨halive.symm, hcause.symm⟩

/-- A placement that succeeds after RoundInit (R177 to R180). -/
theorem roundPlaced_of_place {s u : State} (h : place (roundInit s) = (true, u))
    (hm : s.cfg.mode = .arena) (hn : 0 < s.cfg.coreSize) (hk : 0 < s.cfg.programs.length)
    (hlen : s.agents.length = s.cfg.programs.length) : RoundPlaced s u := by
  have hu : (place (roundInit s)).2 = u := congrArg Prod.snd h
  have hcount : agentCount (roundInit s).cfg = s.cfg.programs.length := agentCount_of_arena hm
  have hrlen : (roundInit s).agents.length = s.agents.length := List.length_map ..
  obtain ⟨hfirst, hallowed⟩ := place_allowed h hn (hcount ▸ hk) (by rw [hrlen, hcount, hlen])
  exact
    { frame := hu ▸ place_frame (roundInit s)
      length_eq := hu ▸ (place_length _).trans hrlen
      scores_eq := hu ▸ place_roundInit_scores s
      haltCause_eq := fun a ha => (place_roundInit_dead (hu ▸ ha)).2
      first := hfirst
      allowed := hallowed }

/-- A placement that fails ends the arena (R181). -/
theorem beginRound_of_impossible {s : State} (hlt : s.round < s.cfg.rounds)
    (h : (place (roundInit s)).1 = false) :
    beginRound s = failConfig (place (roundInit s)).2 .placementImpossible := by
  rw [beginRound, if_pos hlt]
  split
  next u hu => rw [hu] at h; exact nomatch h
  next u hu => rw [hu]

/-- A placement that succeeds begins the passes (R180, R182). -/
theorem beginRound_of_placed {s : State} (hlt : s.round < s.cfg.rounds)
    (h : (place (roundInit s)).1 = true) :
    beginRound s = { loadAll (place (roundInit s)).2 with phase := .running } := by
  rw [beginRound, if_pos hlt]
  split
  next u hu => rw [hu]
  next u hu => rw [hu] at h; exact nomatch h

/-- A round start that leaves the arena RUNNING placed every agent and then loaded every program
(R180, R181, R182). -/
theorem beginRound_of_running {s : State} (hlt : s.round < s.cfg.rounds)
    (h : (beginRound s).arenaStatus = .running) :
    ∃ u, place (roundInit s) = (true, u) ∧ beginRound s = { loadAll u with phase := .running } := by
  cases hok : (place (roundInit s)).1 with
  | true => exact ⟨_, Prod.ext hok rfl, beginRound_of_placed hlt hok⟩
  | false => rw [beginRound_of_impossible hlt hok] at h; exact nomatch h

/-- The loads keep the starts (R182). -/
theorem loadAll_starts (u : State) : (loadAll u).starts = u.starts :=
  loadAgents_map (fun a => a.start) (fun _ _ => rfl) _ _ _ _

/-! ### The loads of placed agents -/

namespace RoundPlaced

variable {s u : State} (h : RoundPlaced s u)
include h

theorem cfg_eq : u.cfg = s.cfg := by rw [h.frame]
theorem core_eq : u.core = [] := by rw [h.frame]

/-- The loads keep the scores (R182, R188). -/
theorem loadAll_scores :
    (loadAll u).agents.map (fun a => a.score) = s.agents.map (fun a => a.score) :=
  (loadAgents_map (fun a => a.score) (fun _ _ => rfl) _ _ _ _).trans h.scores_eq

/-- The starts are those that were placed (R180, R182). -/
theorem loadAll_allowed : AllowedStarts s.cfg [] (loadAll u).starts :=
  (loadAll_starts u).symm ▸ h.allowed

/-- The entry of an agent after the loads is the one before them with its program loaded (R182). -/
theorem loadAll_getElem? {i : Nat} {p : Program} {b : Agent} (hp : s.cfg.programs[i]? = some p)
    (hb : (loadAll u).agents[i]? = some b) :
    ∃ a m, u.agents[i]? = some a ∧ b = loadedAgent a (load s.cfg.coreSize p m a.start) := by
  have hi : i < u.agents.length := by
    have := (List.getElem?_eq_some_iff.mp hb).1
    rwa [loadAll, loadAgents_length] at this
  have ha := List.getElem?_eq_getElem hi
  rw [← h.cfg_eq] at hp ⊢
  obtain ⟨m, hm⟩ := loadAgents_getElem? (n := u.cfg.coreSize) u.core hp ha
  exact ⟨_, m, ha, Option.some.inj (hb.symm.trans hm)⟩

/-- After the loads an agent lives at its start, with CP past its program (R182). -/
theorem loadAll_entry {i : Nat} {p : Program} {b : Agent} (hp : s.cfg.programs[i]? = some p)
    (hb : (loadAll u).agents[i]? = some b) :
    b.alive = true ∧ b.haltCause = .none ∧ b.len = programLength p ∧ b.ep = b.start ∧
      b.cp = (b.start + b.len) % s.cfg.coreSize := by
  obtain ⟨a, m, ha, rfl⟩ := h.loadAll_getElem? hp hb
  have hmem := List.mem_of_getElem? ha
  refine ⟨rfl, h.haltCause_eq a hmem, load_len .., rfl, ?_⟩
  exact (load_cursor p m (h.allowed.start_lt ha)).trans (by rw [← load_len s.cfg.coreSize p m a.start]; rfl)

/-- The loads give every agent of the table its program (R6, R182). -/
theorem loadAll_len {i : Nat} {b : Agent} (hlen : s.agents.length = s.cfg.programs.length)
    (hb : (loadAll u).agents[i]? = some b) :
    ∃ p ∈ s.cfg.programs, s.cfg.programs[i]? = some p ∧ b.len = programLength p := by
  have hi : i < s.cfg.programs.length := by
    have := (List.getElem?_eq_some_iff.mp hb).1
    rwa [loadAll, loadAgents_length, h.length_eq, hlen] at this
  have hp := List.getElem?_eq_getElem hi
  obtain ⟨-, -, hblen, -⟩ := h.loadAll_entry hp hb
  exact ⟨_, List.getElem_mem hi, hp, hblen⟩

/-- With two agents placed the core is larger than the longest program (R179, R193). -/
theorem maxLen_lt (hk : 2 ≤ u.agents.length) : s.cfg.maxLen < s.cfg.coreSize := by
  have ha := List.getElem?_eq_getElem (show 0 < u.agents.length by omega)
  have hb := List.getElem?_eq_getElem (show 1 < u.agents.length by omega)
  have halt := h.allowed.start_lt ha
  have hdist := lt_dist_of_not_mem_exclusion halt (h.allowed.start_lt hb)
    (h.allowed.not_mem_exclusion Nat.one_pos ha hb)
  have hlt := Nat.mod_lt (u.agents[1].start + s.cfg.coreSize - u.agents[0].start)
    (Nat.zero_lt_of_lt halt)
  omega

/-- The programs loaded at allowed starts have no cell in common (R179, R182). -/
theorem programs_apart (hfit : ∀ p ∈ s.cfg.programs, programLength p ≤ s.cfg.maxLen) :
    (s.cfg.programs.zip u.agents).Pairwise (fun q r =>
      ∀ j < programLength q.1,
        OutsidePair s.cfg.coreSize r ((q.2.start + j) % s.cfg.coreSize)) := by
  refine List.pairwise_iff_getElem.mpr fun i i' hi hi' hlt j hj j' hj' => ?_
  have hq := List.getElem?_zip_eq_some.mp (List.getElem?_eq_getElem hi)
  have hr := List.getElem?_zip_eq_some.mp (List.getElem?_eq_getElem hi')
  have hqlen := hfit _ (List.mem_of_getElem? hq.1)
  have hrlen := hfit _ (List.mem_of_getElem? hr.1)
  exact add_mod_ne_of_not_mem_exclusion (h.allowed.start_lt hr.2)
    (h.allowed.not_mem_exclusion hlt hq.2 hr.2) (by omega) (by omega)

/-- After the loads every program is whole in the core (R182). -/
theorem loadAll_get_program (hk : 2 ≤ u.agents.length)
    (hfit : ∀ p ∈ s.cfg.programs, programLength p ≤ s.cfg.maxLen) {i : Nat} {p : Program} {b : Agent}
    (hp : s.cfg.programs[i]? = some p) (hb : (loadAll u).agents[i]? = some b) {j : Nat} {x : Instr}
    (hx : (recognise p)[j]? = some x) :
    (loadAll u).core.get ((b.start + j) % s.cfg.coreSize) = opcode x := by
  obtain ⟨a, m, ha, rfl⟩ := h.loadAll_getElem? hp hb
  have hlt := h.maxLen_lt hk
  have hpair : (p, a) ∈ s.cfg.programs.zip u.agents :=
    List.mem_of_getElem? (List.getElem?_zip_eq_some.mpr ⟨hp, ha⟩)
  have hwhole := loadAgents_get_program s.cfg.programs u.agents u.core
    (fun q hq => (hfit q.1 (List.of_mem_zip hq).1).trans hlt.le) (h.programs_apart hfit)
    (p, a) hpair j x hx
  rwa [loadAll, h.cfg_eq]

/-- After the loads every cell outside the programs is 0 (R177, R182). -/
theorem loadAll_get_outside {x : Nat}
    (hx : ∀ a ∈ (loadAll u).agents, OutsideLoad s.cfg.coreSize a.start a.len x) :
    (loadAll u).core.get x = 0#4 := by
  have hzero : u.core.get x = 0#4 := by rw [h.core_eq, Memory.get_nil]
  refine Eq.trans ?_ hzero
  refine loadAgents_get_outside _ _ _ fun q hq => ?_
  rw [h.cfg_eq] at hq ⊢
  obtain ⟨i, hi⟩ := List.mem_iff_getElem?.mp hq
  obtain ⟨hp, ha⟩ := List.getElem?_zip_eq_some.mp hi
  obtain ⟨m, hb⟩ := loadAgents_getElem? (n := s.cfg.coreSize) u.core hp ha
  have hout := hx (loadedAgent q.2 (load s.cfg.coreSize q.1 m q.2.start))
    (List.mem_of_getElem? (i := i) (by rw [loadAll, h.cfg_eq]; exact hb))
  rwa [loadedAgent, load_len] at hout

end RoundPlaced

/-! ### The start of a round -/

/-- A transition from before a round that leaves the arena RUNNING loads the programs of agents placed
at allowed starts (R177 to R182). -/
theorem roundPlaced_of_step {s t : State} (hm : s.cfg.mode = .arena) (hr : s.arenaStatus = .running)
    (hp : s.phase = .loading) (hlt : s.round < s.cfg.rounds) (hn : 0 < s.cfg.coreSize)
    (hk : 0 < s.cfg.programs.length) (hlen : s.agents.length = s.cfg.programs.length)
    (hstep : step s = .next t) (ht : t.arenaStatus = .running) :
    ∃ u, RoundPlaced s u ∧ t = { loadAll u with phase := .running } := by
  rw [step_of_arena_loading hm hr hp] at hstep
  obtain rfl : beginRound s = t := Host.Outcome.next.inj hstep
  obtain ⟨u, hplace, hu⟩ := beginRound_of_running hlt ht
  exact ⟨u, roundPlaced_of_place hplace hm hn hk hlen, hu⟩

/-- Settles O54, from the distance of two starts outside each other's window. -/
theorem placementSeparatesThePrograms : Obligations.PlacementSeparatesThePrograms := by
  intro s t hm hr hp hlt hn hlen hk hfit hstep ht
  obtain ⟨u, hu, rfl⟩ :=
    roundPlaced_of_step hm hr hp hlt (Nat.zero_lt_of_lt hn) hk hlen hstep ht
  have hlenle {i : Nat} {b : Agent} (hb : (loadAll u).agents[i]? = some b) :
      b.len ≤ s.cfg.maxLen := by
    obtain ⟨p, hp, -, hblen⟩ := hu.loadAll_len hlen hb
    exact hblen ▸ hfit p hp
  have hallowed := hu.loadAll_allowed
  refine ⟨fun a ha => ?_, fun i j a b hij ha hb => ?_⟩
  · have hfirst := hu.first
    rw [← loadAll_starts, List.getElem?_map, ha] at hfirst
    exact Option.some.inj hfirst
  · have hout := hallowed.not_mem_exclusion hij ha hb
    have halt := hallowed.start_lt ha
    have hblt := hallowed.start_lt hb
    have hab := lt_dist_of_not_mem_exclusion halt hblt hout
    have hba := lt_dist_of_not_mem_exclusion hblt halt fun hin => hout (mem_exclusion_symm hblt hin)
    have halen := hlenle ha
    have hblen := hlenle hb
    exact ⟨hout, hab, hba, by omega, by omega⟩

/-- Settles O55, from the loads of agents placed at allowed starts. -/
theorem roundStartLoadsEveryProgramWhole : Obligations.RoundStartLoadsEveryProgramWhole := by
  intro s t hm hr hp hlt hn hlen hk hfit hstep ht
  obtain ⟨u, hu, rfl⟩ := roundPlaced_of_step hm hr hp hlt (Nat.zero_lt_of_lt hn)
    (Nat.zero_lt_of_lt hk) hlen hstep ht
  have hframe := hu.frame
  have hcount : 2 ≤ u.agents.length := by rw [hu.length_eq, hlen]; exact hk
  refine ⟨rfl, by rw [hframe]; rfl, by rw [hframe]; rfl, by rw [hframe]; rfl, hu.loadAll_scores,
    fun i p a hp ha => ?_, fun x => hu.loadAll_get_outside⟩
  obtain ⟨halive, hcause, halen, hep, hcp⟩ := hu.loadAll_entry hp ha
  exact ⟨halive, hcause, halen, hep, hcp, fun j x => hu.loadAll_get_program hcount hfit hp ha⟩

/-- Settles O56: the placement of a round start succeeds, or it fails and no agent is loaded. -/
theorem impossiblePlacementEndsTheArena : Obligations.ImpossiblePlacementEndsTheArena := by
  intro s hm hr hp hlt hk
  have hplace := place_frame (roundInit s)
  refine ⟨beginRound s, step_of_arena_loading hm hr hp, ?_, fun hw => ?_⟩
  · cases hok : (place (roundInit s)).1 with
    | true =>
      rw [beginRound_of_placed hlt hok]
      exact .inl (by rw [hplace]; exact hr)
    | false =>
      rw [beginRound_of_impossible hlt hok]
      exact .inr ⟨rfl, rfl, place_roundInit_scores s, fun a ha => (place_roundInit_dead ha).1,
        by rw [hplace]; rfl, scoreVector_of_not_done (by simp [failConfig])⟩
  · have hcount : 2 ≤ agentCount (roundInit s).cfg := (agentCount_of_arena hm).symm ▸ hk
    rw [beginRound_of_impossible hlt (place_of_whole hcount hw)]
    rfl

end Sys2Proof.Machine
end

section
/-! PROOFS. Loading and the SINGLE run (spec/70_reset_and_hazards.md R201 to R203): what a load leaves,
the state a boot leaves, and the first step of a program without a symbol. -/

namespace Sys2Proof.Machine

/-- Settles O45: its length, its cursor, its cells and its frame, each by induction over the text. -/
theorem loaderWritesTheSymbolsAndNothingElse : Obligations.LoaderWritesTheSymbolsAndNothingElse :=
  fun n p m o ho => ⟨load_len n p m o, load_cursor p m ho, loadFrom_holdsProgram n p m o 0,
    fun _ => loadFrom_get_outside p m o 0⟩

/-! ### The SINGLE boot -/

/-- The agent table after a boot: agent 0 alone, EP and start 0, CP one past the program (R203). -/
theorem bootSingle_agents {s : State} (p : Program) (hn : 0 < s.cfg.coreSize) :
    (bootSingle p s).agents = [{ Agent.fresh with
      cp := programLength p % s.cfg.coreSize, len := programLength p }] := by
  simp [bootSingle, bootAgent, load_len, load_cursor p [] hn, Agent.fresh]

/-- A boot clears every cell its program does not cover (R203, R43). -/
theorem bootSingle_get_outside {s : State} {p : Program} {x : Nat}
    (hx : OutsideLoad s.cfg.coreSize 0 (programLength p) x) : (bootSingle p s).core.get x = 0#4 :=
  loadFrom_get_outside p [] 0 0 hx

/-- Settles O46: the boot transition, its agent table and its core. -/
theorem singleRunStartLoadsTheProgram : Obligations.SingleRunStartLoadsTheProgram :=
  fun s p hm hn hp hpr => ⟨bootSingle p s, _, step_boot hm hn hp hpr,
    bootSingle_agents p (Nat.zero_lt_of_lt hn), rfl, rfl, rfl, rfl, rfl, rfl, rfl, rfl, rfl, rfl, rfl,
    loadFrom_holdsProgram s.cfg.coreSize p [] 0 0, fun _ => bootSingle_get_outside⟩

/-! ### The empty program -/

/-- A boot of a program without a symbol leaves every cell 0 (R203). -/
theorem memRead_bootSingle_of_empty {s : State} {p : Program} (hlen : programLength p = 0) (x : Int) :
    memRead (bootSingle p s) x = 0#4 :=
  bootSingle_get_outside fun _ hj => absurd (hlen ▸ hj) (Nat.not_lt_zero _)

/-- A SINGLE run within its budget whose EP is at a 0 halts there, and the step counts (R130, R165). -/
theorem step_of_single_at_zero {s : State} {a : Agent} (hm : s.cfg.mode = .single)
    (hn : 2 ≤ s.cfg.coreSize) (hp : s.phase = .running) (hr : s.runStatus = .running)
    (hi : s.iter < s.cfg.maxIter) (ha : s.agents = [a]) (hz : memRead s a.ep = 0#4) :
    step s = .next { s with
      agents := [{ a with haltCause := .haltOp }], runStatus := .halted, iter := s.iter + 1 } := by
  have hentry : s.agents[cur s]? = some a := by rw [cur_of_single hm, ha]; rfl
  have hfetch : fetch s = 0#4 := by rw [fetch, fetchAddress, curAgent_of_some hentry, hz]
  have hexec : exec (decode (fetch s)) s = .next (takeHalt s .haltOp) := by rw [hfetch]; rfl
  rw [step_of_single_booted hm hn hp, runSingle_of_running hr hi, hexec,
    takeHalt_single .haltOp hm hentry, cur_of_single hm, ha]
  rfl

/-- Settles O47: the boot leaves an all-zero core and both pointers 0, so the first step is at a 0. -/
theorem emptyProgramHaltsInItsFirstStep : Obligations.EmptyProgramHaltsInItsFirstStep := by
  intro c p hm hn hi hpr hlen
  have hzero := memRead_bootSingle_of_empty (s := hostConfigure c) hlen
  have hagents := bootSingle_agents (s := hostConfigure c) p (Nat.zero_lt_of_lt hn)
  rw [hlen, Nat.zero_mod] at hagents
  exact ⟨_, _, _, _, step_boot hm hn rfl hpr, hagents, rfl, rfl, hzero 0,
    step_of_single_at_zero hm hn rfl rfl hi hagents (hzero _), rfl, rfl, rfl, rfl, rfl, rfl⟩

end Sys2Proof.Machine
end

section
/-! PROOFS. The invariant at reset (spec/10_state.md, spec/70_reset_and_hazards.md R203): the reset state
is the boot of the empty program, so it meets the invariant as every state does that a run reaches. -/

namespace Sys2Proof.Machine

/-- The configuration the model chose (log 2), before its run starts, meets the invariant (R205). -/
theorem hostConfigure_default_inv : State.Inv (hostConfigure RunConfig.default) :=
  hostConfigure_inv (by decide)

/-- Settles O43: the base case of the invariant. The boot transition that ends in the reset state
(O48) starts from a state that meets the invariant, and every transition keeps it (O44). -/
theorem invariantHoldsAtReset : Obligations.InvariantHoldsAtReset := by
  obtain ⟨hboot, -⟩ := resetIsTheRunStartOfTheEmptyProgram
  exact step_inv hostConfigure_default_inv hboot

end Sys2Proof.Machine
end
